-- ==== Sys2Proof/Word.lean ====
section
/-! DEFINITION. The widths the block fixes (spec/00_scope.md R9, R12; spec/20_memory.md R50). -/

namespace Sys2Proof

/-- A byte is 8 bits (R12). -/
abbrev Byte := BitVec 8

/-- A checksum, a port and a term of the checksum are 16 bits (R9, R100). -/
abbrev Half := BitVec 16

/-- A register location, a command word, an IPv4 address and the accumulator are 32 bits (R9, R21, R70). -/
abbrev Word := BitVec 32

/-- A hardware address is 48 bits (R9). -/
abbrev Mac := BitVec 48

/-- An offset in the host address space is 19 bits (R50). -/
abbrev Offset := BitVec 19

end Sys2Proof
end

