-- ==== Sys2Proof/Syntax.lean ====
section
/-! DEFINITION. The commands, one constructor per row of spec/opcode_table.json
(spec/30_encoding.md R70, R71, R72). -/

namespace Sys2Proof

/-- The buffer that `sel = w[8]` selects: 0 is `PBUF`, 1 is `FBUF` (R72). -/
inductive BufSel where
  | pbuf
  | fbuf
  deriving DecidableEq, Repr

/-- The eight commands of R71. Every operand type is exactly the range of its field (R72), so every
term is well formed; every other operand of a command comes from registers. -/
inductive Instr where
  /-- `NOP` (R163). -/
  | nop
  /-- `ACLR` (R107). -/
  | aclr
  /-- `AADD imm16` (R108). -/
  | aadd (imm16 : Half)
  /-- `ASUM sel` (R109). -/
  | asum (sel : BufSel)
  /-- `AFIN` (R110). -/
  | afin
  /-- `CKSUM sel` (R121). -/
  | cksum (sel : BufSel)
  /-- `UDPCS` (R127). -/
  | udpcs
  /-- `BUILD` (R140). -/
  | build
  deriving DecidableEq, Repr

end Sys2Proof
end

