-- ==== Sys2Proof/WellFormed.lean ====
section
/-! DEFINITION. Which command words are legal (spec/30_encoding.md R70, R71, R87), said from the
sub-formats and once more from the rows of spec/opcode_table.json; neither uses the decoder. A term of
`Instr` needs no check of its own: its operand types are exactly the fields' ranges. -/

namespace Sys2Proof

/-- The three sub-formats of R70. -/
inductive SubFormat where
  | c0
  | ci
  | cs
  deriving DecidableEq, Repr

/-- The bits that a sub-format says must be 0 (R70, R87). -/
def SubFormat.mustBeZero : SubFormat → Word
  | .c0 => 0xFFFFFF00#32
  | .ci => 0xFF000000#32
  | .cs => 0xFFFFFE00#32

/-- The sub-format of each defined opcode; the other 248 are reserved (R71). -/
def subFormatOf : Nat → Option SubFormat
  | 0x00 => some .c0
  | 0x01 => some .c0
  | 0x02 => some .ci
  | 0x03 => some .cs
  | 0x04 => some .c0
  | 0x05 => some .cs
  | 0x06 => some .c0
  | 0x07 => some .c0
  | _ => none

/-- A word that is not illegal in the sense of R87. -/
def legalWord (w : Word) : Bool :=
  match subFormatOf (w.toNat % 256) with
  | none => false
  | some f => w &&& f.mustBeZero == 0#32

/-- One row of spec/opcode_table.json: its `mask` and its `match`. -/
structure OpcodeRow where
  mask : Word
  pattern : Word
  deriving DecidableEq, Repr

/-- Whether a word belongs to a row. -/
def OpcodeRow.accepts (r : OpcodeRow) (w : Word) : Bool := w &&& r.mask == r.pattern

/-- The row of spec/opcode_table.json that a command belongs to. -/
def Instr.row : Instr → OpcodeRow
  | .nop => ⟨0xFFFFFFFF#32, 0x00000000#32⟩
  | .aclr => ⟨0xFFFFFFFF#32, 0x00000001#32⟩
  | .aadd _ => ⟨0xFF0000FF#32, 0x00000002#32⟩
  | .asum _ => ⟨0xFFFFFEFF#32, 0x00000003#32⟩
  | .afin => ⟨0xFFFFFFFF#32, 0x00000004#32⟩
  | .cksum _ => ⟨0xFFFFFEFF#32, 0x00000005#32⟩
  | .udpcs => ⟨0xFFFFFFFF#32, 0x00000006#32⟩
  | .build => ⟨0xFFFFFFFF#32, 0x00000007#32⟩

end Sys2Proof
end

