-- ==== Sys2Proof/Decode.lean ====
section
/-! DEFINITION. The decoder, total on 32-bit words (spec/43_system.md R162), and after it the encoder
(spec/30_encoding.md R70, R71, R72). -/

namespace Sys2Proof

/-- Why a word is illegal (R87): its opcode is reserved, or a bit its sub-format says must be 0 is 1. -/
inductive Illegal where
  | reservedOpcode (opc : Byte)
  | operandBits (opc : Byte)
  deriving DecidableEq, Repr

/-- `opc = w[7:0]` (R70). -/
def opcodeOf (w : Word) : Byte := w.extractLsb' 0 8

/-- `imm16 = w[23:8]`, used as it stands (R72). -/
def immOf (w : Word) : Half := w.extractLsb' 8 16

/-- `sel = w[8]`: 0 selects `PBUF`, 1 selects `FBUF` (R72). -/
def selOf (w : Word) : BufSel := if w.getLsbD 8 then .fbuf else .pbuf

/-- A `C0` word carries no operand: `w[31:8] = 0` (R70, R162). -/
def decodeC0 (w : Word) (i : Instr) : Except Illegal Instr :=
  if w.extractLsb' 8 24 = 0#24 then .ok i else .error (.operandBits (opcodeOf w))

/-- A `CI` word carries `imm16`: `w[31:24] = 0` (R70, R162). -/
def decodeCI (w : Word) (i : Half → Instr) : Except Illegal Instr :=
  if w.extractLsb' 24 8 = 0#8 then .ok (i (immOf w)) else .error (.operandBits (opcodeOf w))

/-- A `CS` word carries `sel`: `w[31:9] = 0` (R70, R162). -/
def decodeCS (w : Word) (i : BufSel → Instr) : Except Illegal Instr :=
  if w.extractLsb' 9 23 = 0#23 then .ok (i (selOf w)) else .error (.operandBits (opcodeOf w))

/-- `Decode` of R162. -/
def decode (w : Word) : Except Illegal Instr :=
  if opcodeOf w = 0x00#8 then decodeC0 w .nop
  else if opcodeOf w = 0x01#8 then decodeC0 w .aclr
  else if opcodeOf w = 0x02#8 then decodeCI w .aadd
  else if opcodeOf w = 0x03#8 then decodeCS w .asum
  else if opcodeOf w = 0x04#8 then decodeC0 w .afin
  else if opcodeOf w = 0x05#8 then decodeCS w .cksum
  else if opcodeOf w = 0x06#8 then decodeC0 w .udpcs
  else if opcodeOf w = 0x07#8 then decodeC0 w .build
  else .error (.reservedOpcode (opcodeOf w))

/-- The value of `sel` as one bit (R72). -/
def selBit : BufSel → BitVec 1
  | .pbuf => 0#1
  | .fbuf => 1#1

/-- The word of a command (R70, R71, R72): operand field, then opcode. -/
def encode : Instr → Word
  | .nop => 0x00000000#32
  | .aclr => 0x00000001#32
  | .aadd imm16 => 0x00#8 ++ imm16 ++ 0x02#8
  | .asum sel => 0#23 ++ selBit sel ++ 0x03#8
  | .afin => 0x00000004#32
  | .cksum sel => 0#23 ++ selBit sel ++ 0x05#8
  | .udpcs => 0x00000006#32
  | .build => 0x00000007#32

/-- The host's probe of the decoder: a command word is one 32-bit number and is not laid out in bytes
(R55, R70; log 10); the bits above `nbits` are 0. -/
def decodeTableWord (nbits w : Nat) : Option Instr :=
  (decode (BitVec.ofNat 32 (w % 2 ^ nbits))).toOption

end Sys2Proof
end

