-- ==== Sys2Proof/Config.lean ====
section
/-! DEFINITION. What an implementation fixes (spec/00_scope.md R7) and the values the spec leaves
free (spec/93_implementation_defined.md U1, U2, U3). -/

namespace Sys2Proof

/-- The two implementation parameters of R7, "both left open as arguments of the model". -/
structure Config where
  /-- `PBUF_SIZE`, the capacity of the payload buffer in bytes. -/
  pbufSize : Nat
  /-- `FBUF_SIZE`, the capacity of the frame buffer in bytes. -/
  fbufSize : Nat
  deriving DecidableEq, Repr

namespace Config

/-- The constraints of R7's table. -/
abbrev Legal (c : Config) : Prop :=
  42 ≤ c.fbufSize ∧ c.fbufSize ≤ 65549 ∧ c.fbufSize - 42 ≤ c.pbufSize ∧ c.pbufSize ≤ 131072

/-- The reference values of R7's table, which the spec's own test vectors use.
DESIGN CHOICE (log 7): the state after reset carries these; statements range over every legal value. -/
def reference : Config := { pbufSize := 2048, fbufSize := 2048 }

/-- The `n`-th free byte: what a read of a buffer byte that nothing has written since reset returns
(U1), what a byte read of `FBUF` while busy returns (U2), and what an 8-bit read that is a protocol
error returns (U3). It has no body: nothing can evaluate it. Safe (log 1, 2, 3). -/
opaque freeByte : Nat → Byte

/-- The `n`-th free 16-bit value: what a 16-bit read, always a protocol error, returns (U3). Safe (log 3). -/
opaque freeHalf : Nat → Half

/-- The `n`-th free 32-bit value: what a read of `ACC`, `CSUM` or `FLEN` while busy returns (U2), and
what a 32-bit read that is a protocol error returns (U3). Safe (log 2, 3). -/
opaque freeWord : Nat → Word

end Config

end Sys2Proof
end

