-- ==== Sys2Proof/Machine/State.lean ====
section
/-! DEFINITION. The state of one block (spec/10_state.md R20, R33, R41), what the outside world does
to it (spec/20_memory.md R53, R57; spec/70_reset_and_hazards.md R200), and its reset value (R39, R201). -/

namespace Sys2Proof.Machine

/-- A buffer, as the bytes written since reset: (index, byte) with indices strictly rising. An index
that is not listed has no stored value (R39, U1). -/
abbrev Memory := List Host.Cell

/-- The canonical form of a buffer: indices strictly rise. What an unlisted index reads as is a free
value (U1), so no entry can equal it, and equal buffers are equal lists (log 21). -/
abbrev Memory.wf (m : Memory) : Prop := m.Pairwise (fun x y => x.1 < y.1)

/-- `STATUS.ECODE`: the five codes the block produces (R181, U9; log 18). -/
inductive ECode where
  | none
  | illCmd
  | len
  | cov
  | region
  deriving DecidableEq, Repr

/-- The fields of `STATUS` (R33). -/
structure Status where
  busy : Bool
  done : Bool
  err : Bool
  perr : Bool
  ecode : ECode
  deriving DecidableEq, Repr

/-- The ten parameter registers (R20 to R28), written by the host alone. -/
structure ParamRegs where
  dmac : Mac
  smac : Mac
  sip : Word
  dip : Word
  sport : Half
  dport : Half
  plen : Word
  clen : Word
  rbase : Word
  rlen : Word
  deriving DecidableEq, Repr

/-- A host transaction: those of R53, at any offset, and the 16-bit accesses, which R57 forbids
everywhere and which are therefore protocol errors (R58; log 9). -/
inductive Tx where
  | write32 (off : Offset) (d : Word)
  | read32 (off : Offset)
  | write16 (off : Offset) (d : Half)
  | read16 (off : Offset)
  | write8 (off : Offset) (b : Byte)
  | read8 (off : Offset)
  deriving DecidableEq, Repr

/-- Who moves next: the host with a transaction, the engine (R10), or the platform's reset (R200). -/
inductive Event where
  | host (tx : Tx)
  | engine
  | reset
  deriving DecidableEq, Repr

/-- The data a read returned to the host (R53). -/
inductive Reply where
  | word (d : Word)
  | half (d : Half)
  | byte (b : Byte)
  deriving DecidableEq, Repr

/-- The state: the record of R41, the implementation parameters (R7), and the model's own `fresh`,
`schedule` and `replies`. -/
structure State where
  /-- `PBUF_SIZE` and `FBUF_SIZE`: parameters that no step changes (R7, R40; log 7). -/
  cfg : Config
  /-- `CMDLATCH`, the last accepted command word (R32). -/
  cmdlatch : Word
  /-- `STATUS` (R33). -/
  status : Status
  /-- The parameter registers (R21 indices 2 to 13). -/
  params : ParamRegs
  /-- `ACC` (R29). -/
  acc : Word
  /-- `CSUM` (R30). -/
  csum : Half
  /-- `FLEN` (R31). -/
  flen : Word
  /-- `PBUF` (R35). -/
  pbuf : Memory
  /-- `FBUF` (R36). -/
  fbuf : Memory
  /-- The model's own: how many free values have been drawn (log 4). -/
  fresh : Nat
  /-- The model's own: what the agents do next, oldest first (log 5). -/
  schedule : List Event
  /-- The model's own: what reads have returned, oldest first (log 6). -/
  replies : List Reply
  deriving DecidableEq, Repr

/-- The reasons the machine stops: none. A command error and a protocol error are next states
(R58, R182), so no step ever faults (safe: there is no behaviour this leaves out). -/
inductive Fault where
  deriving DecidableEq, Repr

/-- The reasons an instruction has no meaning. -/
inductive Refusal where
  /-- Raised by an arm of `exec` whose instruction is not modelled yet: no arm raises it. Safe. -/
  | notModelled (mnemonic : String)
  deriving DecidableEq, Repr

/-- `STATUS` after reset: not busy, not done, no error, no protocol error, code 0 (R39, R201). -/
def Status.reset : Status :=
  { busy := false, done := false, err := false, perr := false, ecode := .none }

/-- Every parameter register after reset is 0 (R39, R201). -/
def ParamRegs.reset : ParamRegs :=
  { dmac := 0#48, smac := 0#48, sip := 0#32, dip := 0#32, sport := 0#16, dport := 0#16,
    plen := 0#32, clen := 0#32, rbase := 0#32, rlen := 0#32 }

/-- A block with parameters `c` right after reset (R39, R201): every register 0, every buffer byte
unwritten. DESIGN CHOICE for the model's own fields: nothing scheduled, no reply, no value drawn
(log 4, 5, 6). -/
def State.resetWith (c : Config) : State :=
  { cfg := c
    cmdlatch := 0#32
    status := Status.reset
    params := ParamRegs.reset
    acc := 0#32
    csum := 0#16
    flen := 0#32
    pbuf := []
    fbuf := []
    fresh := 0
    schedule := []
    replies := [] }

/-- The state after reset, with the spec's reference parameters (R7; DESIGN CHOICE, log 7). -/
def State.reset : State := State.resetWith Config.reference

namespace State

/-! The one way each field is written; Sys2Proof/Laws/State.lean has a lemma for each field under
each of them. -/

/-- `CMDLATCH <- w`. -/
def setLatch (s : State) (w : Word) : State := { s with cmdlatch := w }

/-- `STATUS <- x`. -/
def setStatus (s : State) (x : Status) : State := { s with status := x }

/-- The parameter registers take `p`. -/
def setParams (s : State) (p : ParamRegs) : State := { s with params := p }

/-- `ACC <- a`. -/
def setAcc (s : State) (a : Word) : State := { s with acc := a }

/-- `CSUM <- c`. -/
def setCsum (s : State) (c : Half) : State := { s with csum := c }

/-- `FLEN <- n`. -/
def setFlen (s : State) (n : Word) : State := { s with flen := n }

/-- `PBUF` takes `m`. -/
def setPbuf (s : State) (m : Memory) : State := { s with pbuf := m }

/-- `FBUF` takes `m`. -/
def setFbuf (s : State) (m : Memory) : State := { s with fbuf := m }

/-- The count of drawn free values becomes `n`. -/
def setFresh (s : State) (n : Nat) : State := { s with fresh := n }

/-- What happens next becomes `l`. -/
def setSchedule (s : State) (l : List Event) : State := { s with schedule := l }

/-- A read returns `r` to the host. -/
def pushReply (s : State) (r : Reply) : State := { s with replies := s.replies ++ [r] }

end State

end Sys2Proof.Machine
end

