-- ==== Sys2Proof/Machine/Flags.lean ====
section
/-! DEFINITION. Every computation of `STATUS` (spec/10_state.md R32, R33; spec/43_system.md R161;
spec/60_exceptions.md R181, R182; spec/20_memory.md R58). The block has no condition codes (R34). -/

namespace Sys2Proof.Machine

/-- The 4-bit code of an error (R181). -/
def ECode.code : ECode → BitVec 4
  | .none => 0#4
  | .illCmd => 1#4
  | .len => 2#4
  | .cov => 3#4
  | .region => 4#4

/-- `STATUS` as a host reads it: bit 0 `BUSY`, 1 `DONE`, 2 `ERR`, 3 `PERR`, 7:4 `ECODE`, 31:8 zero (R33). -/
def Status.word (x : Status) : Word :=
  0#24 ++ x.ecode.code ++ BitVec.ofBool x.perr ++ BitVec.ofBool x.err ++ BitVec.ofBool x.done
    ++ BitVec.ofBool x.busy

/-- Acceptance of a `CMD` write: `BUSY <- 1`, `DONE <- 0`, `ERR <- 0`, `ECODE <- 0` (R32). -/
def Status.accepted (x : Status) : Status :=
  { x with busy := true, done := false, err := false, ecode := .none }

/-- Completion without error: `BUSY <- 0`, `DONE <- 1`, `ERR <- 0`, `ECODE <- 0` (R161). -/
def Status.completed (x : Status) : Status :=
  { x with busy := false, done := true, err := false, ecode := .none }

/-- Completion with a command error: `BUSY <- 0`, `DONE <- 0`, `ERR <- 1`, `ECODE <- code` (R161, R182). -/
def Status.failed (x : Status) (code : ECode) : Status :=
  { x with busy := false, done := false, err := true, ecode := code }

/-- A protocol error: `PERR <- 1` (R58). -/
def Status.violated (x : Status) : Status := { x with perr := true }

end Sys2Proof.Machine
end

