-- ==== Sys2Proof/Machine/Ops.lean ====
section
/-! DEFINITION. The operations every command shares: field marshaling (spec/00_scope.md R14), the
checksum arithmetic (R15, R16, R17), reads and writes of a buffer (R13), the completion of a command
(spec/43_system.md R161), a command error (spec/60_exceptions.md R182) and the return from one (R190). -/

namespace Sys2Proof.Machine

/-! ### Field marshaling (R14, R82) -/

/-- `BE16(v)`: the most significant byte first (R14). -/
def be16 (v : Half) : List Byte := [v.extractLsb' 8 8, v.extractLsb' 0 8]

/-- `BE32(v)` (R14). -/
def be32 (v : Word) : List Byte :=
  [v.extractLsb' 24 8, v.extractLsb' 16 8, v.extractLsb' 8 8, v.extractLsb' 0 8]

/-- `MAC6(m)`: byte `k` is `m[47-8k : 40-8k]` (R14, R22). -/
def mac6 (m : Mac) : List Byte :=
  [m.extractLsb' 40 8, m.extractLsb' 32 8, m.extractLsb' 24 8, m.extractLsb' 16 8,
    m.extractLsb' 8 8, m.extractLsb' 0 8]

/-- `Word(b0, b1) = b0 * 256 + b1` (R14). -/
def beWord (b0 b1 : Byte) : Half := b0 ++ b1

/-- Bits `[31:16]` of a 32-bit register value (R12). -/
def hiHalf (v : Word) : Half := v.extractLsb' 16 16

/-- Bits `[15:0]` of a 32-bit register value (R12). -/
def loHalf (v : Word) : Half := v.extractLsb' 0 16

/-! ### Checksum arithmetic (R15, R16, R17) -/

/-- `AccAdd(a, w)`: the sum over the natural numbers, with the carry out of bit 31 added back (R15, R101). -/
def accAdd (a : Word) (w : Half) : Word :=
  BitVec.ofNat 32 ((a.toNat + w.toNat) % 2 ^ 32 + (a.toNat + w.toNat) / 2 ^ 32)

/-- One pass of the loop of `Fold`: `(a mod 65536) + (a div 65536)` (R16). -/
def foldPass (a : Nat) : Nat := a % 65536 + a / 65536

/-- The loop of `Fold`, at most `passes` times (R16). -/
def foldLoop : Nat → Nat → Nat
  | 0, a => a
  | passes + 1, a => if a / 65536 = 0 then a else foldLoop passes (foldPass a)

/-- `Fold(a)` (R16): a 32-bit value needs at most two passes (R104), so a bound of four never cuts the
loop short (log 23). -/
def fold (a : Word) : Half := BitVec.ofNat 16 (foldLoop 4 a.toNat)

/-- `Cpl16(v) = 0xFFFF - v` (R16, R103). -/
def cpl16 (v : Half) : Half := 0xFFFF#16 - v

/-- `Finish(a) = Cpl16(Fold(a))` (R16). -/
def finish (a : Word) : Half := cpl16 (fold a)

/-- `SumBytes(a, s)`: byte pairs from the start of the string, an odd last byte in the high half (R17, R105). -/
def sumBytes : Word → List Byte → Word
  | a, [] => a
  | a, [b] => accAdd a (beWord b 0x00#8)
  | a, b0 :: b1 :: s => sumBytes (accAdd a (beWord b0 b1)) s

/-- Terms added one after the other by `AccAdd` (R100). -/
def addTerms (a : Word) (ts : List Half) : Word := ts.foldl accAdd a

/-! ### Buffers (R13, R35, R36) -/

/-- The byte stored at an index, if one has been written since reset. -/
def Memory.get? : Memory → Nat → Option Byte
  | [], _ => none
  | (k, b) :: m, i => if k = i then some b else Memory.get? m i

/-- Consecutive bytes as cells from index `a` up. -/
def cellsFrom : Nat → List Byte → Memory
  | _, [] => []
  | a, b :: bs => (a, b) :: cellsFrom (a + 1) bs

/-- `MemWrite(space, a, n, bs)`: the bytes `bs` at `a .. a+n-1`, lowest first, every other byte kept
(R13); the indices stay strictly rising. -/
def Memory.write (m : Memory) (a : Nat) (bs : List Byte) : Memory :=
  m.filter (fun c => c.1 < a) ++ cellsFrom a bs ++ m.filter (fun c => a + bs.length ≤ c.1)

/-- One byte read when `fresh` free values have been drawn: the stored byte, or the next free value
when nothing has been written there since reset (U1; log 1). The second part is the new count. -/
def Memory.readByte (m : Memory) (fresh i : Nat) : Byte × Nat :=
  match m.get? i with
  | some b => (b, fresh)
  | none => (Config.freeByte fresh, fresh + 1)

/-- `MemRead(space, a, n)`: the `n` bytes from `a` up (R13), each unwritten one drawn afresh (U1). -/
def Memory.read (m : Memory) : (fresh a n : Nat) → List Byte × Nat
  | fresh, _, 0 => ([], fresh)
  | fresh, a, n + 1 =>
    ((m.readByte fresh a).1 :: (m.read (m.readByte fresh a).2 (a + 1) n).1,
      (m.read (m.readByte fresh a).2 (a + 1) n).2)

/-! ### Completion, command error, return -/

/-- A command completes without error (R161). -/
def completeOk (s : State) : Host.Outcome State Fault Refusal :=
  .next (s.setStatus s.status.completed)

/-- A command error, the block's exception entry: `STATUS` reports it and nothing else changes; nothing
is saved because nothing is lost (R182, R190). `raise InvalidArgument(code)` and an illegal word alike. -/
def raise (code : ECode) (s : State) : Host.Outcome State Fault Refusal :=
  .next (s.setStatus (s.status.failed code))

/-- The return from a command error, and the issue of every command: an accepted `CMD` write latches the
word, goes busy, and clears `DONE`, `ERR` and `ECODE` (R32, R160, R190). -/
def accept (w : Word) (s : State) : State :=
  (s.setLatch w).setStatus s.status.accepted

/-- What every finished sum leaves: `ACC <- Fold(a)`, zero-extended, and `CSUM <- Cpl16` of it (R110, R121,
R127, R144). -/
def leaveChecksum (a : Word) (s : State) : State :=
  (s.setAcc ((fold a).setWidth 32)).setCsum (cpl16 (fold a))

end Sys2Proof.Machine
end

