-- ==== Sys2Proof/Machine/Operands.lean ====
section
/-! DEFINITION. Where a command's operands come from and when they are valid: the region of a selected
buffer (spec/10_state.md R28, spec/40_accumulator.md R106), the payload and its covered part
(spec/41_checksum.md R126, spec/42_frame.md R141, R142), and the constants of spec/00_scope.md R8. -/

namespace Sys2Proof.Machine

/-- `HDR_LEN`: the header bytes before the payload, 14 + 20 + 8 (R8). -/
def hdrLen : Nat := 14 + 20 + 8

/-- `MAX_UDP_PAYLOAD`: the largest payload whose 16-bit length fields hold (R8). -/
def maxUdpPayload : Nat := 65507

/-- The buffer that `sel` selects (R72). -/
def State.buf (s : State) : BufSel → Memory
  | .pbuf => s.pbuf
  | .fbuf => s.fbuf

/-- The size of the buffer that `sel` selects (R106). -/
def State.bufSize (s : State) : BufSel → Nat
  | .pbuf => s.cfg.pbufSize
  | .fbuf => s.cfg.fbufSize

/-- `RegionValid`: `RBASE + RLEN <= size` over the natural numbers, with no wrap (R106). -/
abbrev State.RegionValid (s : State) (sel : BufSel) : Prop :=
  s.params.rbase.toNat + s.params.rlen.toNat ≤ s.bufSize sel

/-- The bytes of the region `[RBASE, RBASE + RLEN)` of the selected buffer (R28), and the new count of
drawn free values. -/
def State.region (s : State) (sel : BufSel) : List Byte × Nat :=
  (s.buf sel).read s.fresh s.params.rbase.toNat s.params.rlen.toNat

/-- `N`, the value of `PLEN` when a command reads it (R19, R26). -/
def State.payloadLen (s : State) : Nat := s.params.plen.toNat

/-- `LenOK` as `UDPCS` tests it (R126). -/
abbrev State.LenOk (s : State) : Prop :=
  s.payloadLen ≤ maxUdpPayload ∧ s.payloadLen ≤ s.cfg.pbufSize

/-- `LenOK_BUILD`: also room for the frame (R141). -/
abbrev State.LenOkBuild (s : State) : Prop :=
  s.LenOk ∧ hdrLen + s.payloadLen ≤ s.cfg.fbufSize

/-- `CovOK`: `CLEN <= PLEN` (R126, R141). -/
abbrev State.CovOk (s : State) : Prop := s.params.clen.toNat ≤ s.payloadLen

/-- The coverage `BUILD` uses: zero means the whole payload (R142). -/
def State.buildCov (s : State) : Nat :=
  if s.params.clen.toNat = 0 then s.payloadLen else s.params.clen.toNat

/-- The first `n` bytes of `PBUF`, drawn when `fresh` free values have been. -/
def State.payload (s : State) (fresh n : Nat) : List Byte × Nat := s.pbuf.read fresh 0 n

end Sys2Proof.Machine
end

