-- ==== Sys2Proof/Machine/Accumulator.lean ====
section
/-! DEFINITION. The checksum accumulator commands `ACLR`, `AADD`, `ASUM`, `AFIN`
(spec/40_accumulator.md R107 to R110). -/

namespace Sys2Proof.Machine

/-- `ACLR`: `ACC <- 0`; `CSUM` is not changed (R107). -/
def execAclr (s : State) : Host.Outcome State Fault Refusal :=
  completeOk (s.setAcc 0#32)

/-- `AADD imm16`: `ACC <- AccAdd(ACC, imm16)` (R108). -/
def execAadd (imm16 : Half) (s : State) : Host.Outcome State Fault Refusal :=
  completeOk (s.setAcc (accAdd s.acc imm16))

/-- `ASUM sel`: the region is added to `ACC`, or `E_REGION` before any byte is read (R106, R109). -/
def execAsum (sel : BufSel) (s : State) : Host.Outcome State Fault Refusal :=
  if s.RegionValid sel then
    completeOk ((s.setAcc (sumBytes s.acc (s.region sel).1)).setFresh (s.region sel).2)
  else raise .region s

/-- `AFIN`: fold and complement (R110). -/
def execAfin (s : State) : Host.Outcome State Fault Refusal :=
  completeOk (leaveChecksum s.acc s)

end Sys2Proof.Machine
end

