-- ==== Sys2Proof/Machine/Checksum.lean ====
section
/-! DEFINITION. The checksum commands `CKSUM` and `UDPCS` (spec/41_checksum.md R120 to R127). -/

namespace Sys2Proof.Machine

/-- The protocol number of UDP, 17 (R37; the spec's own G1). -/
def protocolUdp : Byte := 17#8

/-- The nine header terms of the UDP checksum in the order of R122: both address halves, protocol, UDP
length, ports, and the UDP length a second time (R125). -/
def udpTerms (sip dip : Word) (sport dport : Half) (n : Nat) : List Half :=
  [hiHalf sip, loHalf sip, hiHalf dip, loHalf dip, beWord 0x00#8 protocolUdp, BitVec.ofNat 16 (8 + n),
    sport, dport, BitVec.ofNat 16 (8 + n)]

/-- `UdpSum` (R122), given the covered payload bytes. -/
def udpSum (sip dip : Word) (sport dport : Half) (n : Nat) (covered : List Byte) : Word :=
  sumBytes (addTerms 0#32 (udpTerms sip dip sport dport n)) covered

/-- `UdpSum` of the parameter registers and the covered payload bytes (R127, R144). -/
def State.udpSum (s : State) (covered : List Byte) : Word :=
  Sys2Proof.Machine.udpSum s.params.sip s.params.dip s.params.sport s.params.dport s.payloadLen covered

/-- `CKSUM sel`: the generic checksum of the region; the old `ACC` is not used (R120, R121). -/
def execCksum (sel : BufSel) (s : State) : Host.Outcome State Fault Refusal :=
  if s.RegionValid sel then
    completeOk ((leaveChecksum (sumBytes 0#32 (s.region sel).1) s).setFresh (s.region sel).2)
  else raise .region s

/-- `UDPCS`: the length is tested first, then the coverage, which is taken as it stands (R126, R127, R188). -/
def execUdpcs (s : State) : Host.Outcome State Fault Refusal :=
  if s.LenOk then
    if s.CovOk then
      completeOk ((leaveChecksum (s.udpSum (s.payload s.fresh s.params.clen.toNat).1) s).setFresh
        (s.payload s.fresh s.params.clen.toNat).2)
    else raise .cov s
  else raise .len s

end Sys2Proof.Machine
end

