-- ==== Sys2Proof/Machine/Frame.lean ====
section
/-! DEFINITION. The frame and the command that builds it (spec/30_encoding.md R73 to R82,
spec/42_frame.md R140 to R151). -/

namespace Sys2Proof.Machine

/-- EtherType `0x0800` (R37). -/
def etherType : Half := 0x0800#16

/-- Time to live, 255 (R37). -/
def timeToLive : Byte := 255#8

/-- IPv4 version 4 in the high four bits, header length 5 words in the low four (R37, R76). -/
def versionIhl : Byte := 4#4 ++ 5#4

/-- The 14 bytes of the Ethernet header: destination, source, EtherType (R73). -/
def ethHeader (p : ParamRegs) : List Byte := mac6 p.dmac ++ mac6 p.smac ++ be16 etherType

/-- The 20 bytes of the IPv4 header with header checksum `ck`, for payload length `n` (R75). -/
def ipHeader (p : ParamRegs) (n : Nat) (ck : Half) : List Byte :=
  [versionIhl, 0x00#8] ++ be16 (BitVec.ofNat 16 (28 + n)) ++ be16 0#16 ++ be16 0#16
    ++ [timeToLive, protocolUdp] ++ be16 ck ++ be32 p.sip ++ be32 p.dip

/-- `ipcs`: the checksum of the header with its checksum field held at zero (R77). -/
def ipChecksum (p : ParamRegs) (n : Nat) : Half := finish (sumBytes 0#32 (ipHeader p n 0#16))

/-- The 8 bytes of the UDP header with checksum `ck` (R80). -/
def udpHeader (p : ParamRegs) (n : Nat) (ck : Half) : List Byte :=
  be16 p.sport ++ be16 p.dport ++ be16 (BitVec.ofNat 16 (8 + n)) ++ be16 ck

/-- The frame, `FBUF[0 .. 41+N]` (R73): the order of the writes of R144 cannot be observed (R143; log 12). -/
def frameBytes (p : ParamRegs) (n : Nat) (udpcs : Half) (payload : List Byte) : List Byte :=
  ethHeader p ++ ipHeader p n (ipChecksum p n) ++ udpHeader p n udpcs ++ payload

/-- The bytes the UDP checksum of a `BUILD` reads, and the count of free values after it (R142, R144). -/
def State.buildCovered (s : State) : List Byte × Nat := s.payload s.fresh s.buildCov

/-- The bytes `BUILD` copies: a second read of `PBUF`, since the byte summed and the byte copied need not
agree where nothing has been written (U1; log 13). -/
def State.buildPayload (s : State) : List Byte × Nat := s.payload s.buildCovered.2 s.payloadLen

/-- The unfolded UDP sum of a `BUILD` (R144). -/
def State.buildSum (s : State) : Word := s.udpSum s.buildCovered.1

/-- The frame a `BUILD` writes (R144); a UDP checksum of zero is stored as it is (R131). -/
def State.frame (s : State) : List Byte :=
  frameBytes s.params s.payloadLen (cpl16 (fold s.buildSum)) s.buildPayload.1

/-- `BUILD`: both checks precede the first write (R141, R148); then the frame, `FLEN`, `CSUM`, `ACC` (R144,
R145). -/
def execBuild (s : State) : Host.Outcome State Fault Refusal :=
  if s.LenOkBuild then
    if s.CovOk then
      completeOk ((((leaveChecksum s.buildSum s).setFbuf (s.fbuf.write 0 s.frame)).setFlen
        (BitVec.ofNat 32 (hdrLen + s.payloadLen))).setFresh s.buildPayload.2)
    else raise .cov s
  else raise .len s

end Sys2Proof.Machine
end

