-- ==== Sys2Proof/Machine/System.lean ====
section
/-! DEFINITION. The system command `NOP` (spec/43_system.md R163). -/

namespace Sys2Proof.Machine

/-- `NOP`: nothing but `STATUS` changes (R163). -/
def execNop (s : State) : Host.Outcome State Fault Refusal := completeOk s

end Sys2Proof.Machine
end

