-- ==== Sys2Proof/Machine/Dispatch.lean ====
section
/-! DEFINITION. The effect of one command at its completion (spec/43_system.md R161), one arm per
constructor. -/

namespace Sys2Proof.Machine

def exec (i : Instr) (s : State) : Host.Outcome State Fault Refusal :=
  match i with
  | .nop => Sys2Proof.Machine.execNop s
  | .aclr => Sys2Proof.Machine.execAclr s
  | .aadd imm16 => Sys2Proof.Machine.execAadd imm16 s
  | .asum sel => Sys2Proof.Machine.execAsum sel s
  | .afin => Sys2Proof.Machine.execAfin s
  | .cksum sel => Sys2Proof.Machine.execCksum sel s
  | .udpcs => Sys2Proof.Machine.execUdpcs s
  | .build => Sys2Proof.Machine.execBuild s

end Sys2Proof.Machine
end

