-- ==== Sys2Proof/Machine/Engine.lean ====
section
/-! DEFINITION. The engine's one step (spec/43_system.md R161, R162) and the reset event
(spec/70_reset_and_hazards.md R200, R201). -/

namespace Sys2Proof.Machine

/-- *complete*: the latched word is decoded and executed; an illegal word ends with `E_ILLCMD` (R161, R183). -/
def complete (s : State) : Host.Outcome State Fault Refusal :=
  match decode s.cmdlatch with
  | .ok i => exec i s
  | .error _ => raise .illCmd s

/-- The engine's turn: *complete* while `BUSY = 1`; while `BUSY = 0` no step is enabled and nothing changes
(R161, R167). -/
def engineTurn (s : State) : Host.Outcome State Fault Refusal :=
  if s.status.busy then complete s else .next s

/-- The reset event: every register takes its reset value, a command in flight is abandoned, every buffer
byte is unwritten (R200, R201, U15). What the outside world does next and has already read, and the count
of drawn free values, are not the block's and are kept (DESIGN CHOICE, log 14). -/
def resetBlock (s : State) : State :=
  { State.resetWith s.cfg with fresh := s.fresh, schedule := s.schedule, replies := s.replies }

end Sys2Proof.Machine
end

