-- ==== Sys2Proof/Machine/HostBus.lean ====
section
/-! DEFINITION. The host's transactions (spec/20_memory.md R50, R53, R57, R58, R59) on the register map
and the buffers (spec/10_state.md R21, R38). -/

namespace Sys2Proof.Machine

/-- The seventeen register locations, in the order of their indices (R21). -/
inductive Reg where
  | cmd
  | status
  | dmacHi
  | dmacLo
  | smacHi
  | smacLo
  | sip
  | dip
  | sport
  | dport
  | plen
  | clen
  | rbase
  | rlen
  | acc
  | csum
  | flen
  deriving DecidableEq, Repr

/-- Register index `i` (R21); indices 17 to 31 are reserved. -/
def regOfIndex : Nat → Option Reg
  | 0 => some .cmd
  | 1 => some .status
  | 2 => some .dmacHi
  | 3 => some .dmacLo
  | 4 => some .smacHi
  | 5 => some .smacLo
  | 6 => some .sip
  | 7 => some .dip
  | 8 => some .sport
  | 9 => some .dport
  | 10 => some .plen
  | 11 => some .clen
  | 12 => some .rbase
  | 13 => some .rlen
  | 14 => some .acc
  | 15 => some .csum
  | 16 => some .flen
  | _ => none

/-- The register a 32-bit access reaches: index `i` is at offset `4*i`, and the offset must be a multiple
of 4 (R21, R57). -/
def regAt (off : Offset) : Option Reg :=
  if off.toNat % 4 = 0 then regOfIndex (off.toNat / 4) else none

/-- The buffer byte an 8-bit access reaches: `PBUF[i]` at `0x20000 + i`, `FBUF[i]` at `0x40000 + i` (R50). -/
def byteAt (c : Config) (off : Offset) : Option (BufSel × Nat) :=
  if 0x20000 ≤ off.toNat ∧ off.toNat < 0x20000 + c.pbufSize then some (.pbuf, off.toNat - 0x20000)
  else if 0x40000 ≤ off.toNat ∧ off.toNat < 0x40000 + c.fbufSize then some (.fbuf, off.toNat - 0x40000)
  else none

/-- A 48-bit address with its upper half replaced (R22, R41). -/
def withMacHi (m : Mac) (d : Word) : Mac := d.extractLsb' 0 16 ++ m.extractLsb' 0 32

/-- A 48-bit address with its lower half replaced (R22, R41). -/
def withMacLo (m : Mac) (d : Word) : Mac := m.extractLsb' 32 16 ++ d

/-- The value of a register as a 32-bit read returns it, zero-extended (R38). A read of `CMD` returns
`CMDLATCH` (R32). -/
def readReg (s : State) : Reg → Word
  | .cmd => s.cmdlatch
  | .status => s.status.word
  | .dmacHi => (s.params.dmac.extractLsb' 32 16).setWidth 32
  | .dmacLo => s.params.dmac.extractLsb' 0 32
  | .smacHi => (s.params.smac.extractLsb' 32 16).setWidth 32
  | .smacLo => s.params.smac.extractLsb' 0 32
  | .sip => s.params.sip
  | .dip => s.params.dip
  | .sport => s.params.sport.setWidth 32
  | .dport => s.params.dport.setWidth 32
  | .plen => s.params.plen
  | .clen => s.params.clen
  | .rbase => s.params.rbase
  | .rlen => s.params.rlen
  | .acc => s.acc
  | .csum => s.csum.setWidth 32
  | .flen => s.flen

/-- The parameter registers after a write of `d` to one of them, narrowed to its width (R38); `none` for a
register that is no parameter (R21). -/
def writeParam (p : ParamRegs) (d : Word) : Reg → Option ParamRegs
  | .dmacHi => some { p with dmac := withMacHi p.dmac d }
  | .dmacLo => some { p with dmac := withMacLo p.dmac d }
  | .smacHi => some { p with smac := withMacHi p.smac d }
  | .smacLo => some { p with smac := withMacLo p.smac d }
  | .sip => some { p with sip := d }
  | .dip => some { p with dip := d }
  | .sport => some { p with sport := d.setWidth 16 }
  | .dport => some { p with dport := d.setWidth 16 }
  | .plen => some { p with plen := d }
  | .clen => some { p with clen := d }
  | .rbase => some { p with rbase := d }
  | .rlen => some { p with rlen := d }
  | .cmd => none
  | .status => none
  | .acc => none
  | .csum => none
  | .flen => none

/-- The registers whose value while busy is unspecified (R59). -/
def busyUnspecified : Reg → Bool
  | .acc => true
  | .csum => true
  | .flen => true
  | _ => false

/-- A protocol error: `PERR <- 1` and nothing else (R58). -/
def protocolError (s : State) : State := s.setStatus s.status.violated

/-- A 32-bit read returns a free value (U2, U3). -/
def replyFreeWord (s : State) : State := (s.pushReply (.word (Config.freeWord s.fresh))).setFresh (s.fresh + 1)

/-- A 16-bit read returns a free value (U3). -/
def replyFreeHalf (s : State) : State := (s.pushReply (.half (Config.freeHalf s.fresh))).setFresh (s.fresh + 1)

/-- An 8-bit read returns a free value (U2, U3). -/
def replyFreeByte (s : State) : State := (s.pushReply (.byte (Config.freeByte s.fresh))).setFresh (s.fresh + 1)

/-- A write to a register while idle: to `CMD` it starts a command, to a parameter register it stores, to a
read-only register it is a protocol error (R32, R53, R58 case 3). -/
def writeReg (s : State) (r : Reg) (d : Word) : State :=
  match r with
  | .cmd => accept d s
  | _ =>
    match writeParam s.params d r with
    | some p => s.setParams p
    | none => protocolError s

/-- `HostWrite32(off, d)` (R53): every register write while busy is a protocol error (R58 case 3, 4). -/
def hostWrite32 (off : Offset) (d : Word) (s : State) : State :=
  match regAt off with
  | none => protocolError s
  | some r => if s.status.busy then protocolError s else writeReg s r d

/-- `HostRead32(off)` (R53, R58, R59). -/
def hostRead32 (off : Offset) (s : State) : State :=
  match regAt off with
  | none => replyFreeWord (protocolError s)
  | some r =>
    if s.status.busy && busyUnspecified r then replyFreeWord s
    else s.pushReply (.word (readReg s r))

/-- `HostWrite8(off, b)` (R53): every buffer write while busy is a protocol error (R58 case 4). -/
def hostWrite8 (off : Offset) (b : Byte) (s : State) : State :=
  match byteAt s.cfg off with
  | none => protocolError s
  | some (sel, i) =>
    if s.status.busy then protocolError s
    else
      match sel with
      | .pbuf => s.setPbuf (s.pbuf.write i [b])
      | .fbuf => s.setFbuf (s.fbuf.write i [b])

/-- A byte read of a buffer that returns what is stored, or a free value where nothing is (U1). -/
def replyByte (s : State) (m : Memory) (i : Nat) : State :=
  (s.pushReply (.byte (m.readByte s.fresh i).1)).setFresh (m.readByte s.fresh i).2

/-- `HostRead8(off)` (R53, R58, R59). -/
def hostRead8 (off : Offset) (s : State) : State :=
  match byteAt s.cfg off with
  | none => replyFreeByte (protocolError s)
  | some (sel, i) =>
    match sel with
    | .pbuf => replyByte s s.pbuf i
    | .fbuf => if s.status.busy then replyFreeByte s else replyByte s s.fbuf i

/-- One host transaction; every 16-bit access is a protocol error (R57, R58). -/
def hostTransact (tx : Tx) (s : State) : State :=
  match tx with
  | .write32 off d => hostWrite32 off d s
  | .read32 off => hostRead32 off s
  | .write16 _ _ => protocolError s
  | .read16 _ => replyFreeHalf (protocolError s)
  | .write8 off b => hostWrite8 off b s
  | .read8 off => hostRead8 off s

end Sys2Proof.Machine
end

