-- ==== Sys2Proof/Machine/Step.lean ====
section
/-! DEFINITION. One step of the block and the agents around it (spec/00_scope.md R10,
spec/20_memory.md R62, spec/43_system.md R161, R166, R167). -/

namespace Sys2Proof.Machine

/-- One step: the oldest event of the schedule happens. When none is scheduled, a busy block completes its
command (R166: every accepted command does) and an idle block stays as it is (R167; log 5, 19). -/
def step (s : State) : Host.Outcome State Fault Refusal :=
  match s.schedule with
  | [] => engineTurn s
  | .host tx :: l => .next (hostTransact tx (s.setSchedule l))
  | .engine :: l => engineTurn (s.setSchedule l)
  | .reset :: l => .next (resetBlock (s.setSchedule l))

/-- The state in which the command word `w` has just been accepted and the engine moves next: the block
fetches nothing, and a command reaches it by a `CMD` write alone (R27, R65, R160; log 8). -/
def State.withFetchWord (s : State) (nbits w : Nat) : State :=
  (accept (BitVec.ofNat 32 (w % 2 ^ nbits)) s).setSchedule (.engine :: s.schedule)

end Sys2Proof.Machine
end

