-- ==== Sys2Proof/Safety.lean ====
section
/-! DEFINITION. What a well-formed state is and what a safe run is, in the words the statements use
(spec/10_state.md R31, R33; spec/42_frame.md R147; spec/20_memory.md R58, R63). -/

namespace Sys2Proof.Machine

/-- The four combinations of `BUSY`, `DONE`, `ERR` and `ECODE` that R33 allows; `ECODE` reads 0 when
`ERR = 0` (U10). -/
abbrev Status.Legal (x : Status) : Prop :=
  (x.busy = false ∧ x.done = false ∧ x.err = false ∧ x.ecode = .none) ∨
  (x.busy = true ∧ x.done = false ∧ x.err = false ∧ x.ecode = .none) ∨
  (x.busy = false ∧ x.done = true ∧ x.err = false ∧ x.ecode = .none) ∨
  (x.busy = false ∧ x.done = false ∧ x.err = true ∧ x.ecode ≠ .none)

/-- Every byte of `[a, a+n)` has been written since reset. -/
abbrev Memory.Written (m : Memory) (a n : Nat) : Prop := ∀ k < n, (m.get? (a + k)).isSome = true

/-- Both buffers are in canonical form and hold only indices that exist (R35, R36). -/
abbrev State.BuffersOk (s : State) : Prop :=
  s.pbuf.wf ∧ s.fbuf.wf ∧ (∀ c ∈ s.pbuf, c.1 < s.cfg.pbufSize) ∧ (∀ c ∈ s.fbuf, c.1 < s.cfg.fbufSize)

/-- `FLEN` is 0, or the length of a frame that fits `FBUF` and every byte of which has been written
(R31, R147). -/
abbrev State.FrameOk (s : State) : Prop :=
  s.flen = 0#32 ∨
    (42 ≤ s.flen.toNat ∧ s.flen.toNat ≤ s.cfg.fbufSize ∧ s.fbuf.Written 0 s.flen.toNat)

/-- While no command has been accepted since reset, the engine's registers hold their reset values
(R33's first case, R201). -/
abbrev State.UntouchedOk (s : State) : Prop :=
  s.status.busy = false → s.status.done = false → s.status.err = false →
    s.cmdlatch = 0#32 ∧ s.acc = 0#32 ∧ s.csum = 0#16 ∧ s.flen = 0#32

/-- The invariant of the machine. -/
abbrev State.Inv (s : State) : Prop :=
  s.cfg.Legal ∧ s.status.Legal ∧ s.BuffersOk ∧ s.FrameOk ∧ s.UntouchedOk

/-- A state whose host has kept to the interface so far (R58, R63): no protocol error since reset. -/
abbrev State.Clean (s : State) : Prop := s.status.perr = false

/-- A state a safe run may reach: well formed, with no protocol error behind it. -/
abbrev State.Safe (s : State) : Prop := s.Inv ∧ s.Clean

/-- Whether a transaction writes. -/
def Tx.isWrite : Tx → Bool
  | .write32 _ _ => true
  | .write16 _ _ => true
  | .write8 _ _ => true
  | .read32 _ => false
  | .read16 _ => false
  | .read8 _ => false

/-- A register offset that is mapped and aligned: a multiple of 4 up to `0x40` (R21, R50, R57). -/
abbrev RegisterOffset (off : Offset) : Prop := off.toNat % 4 = 0 ∧ off.toNat ≤ 0x40

/-- An offset that a byte of a buffer backs (R50). -/
abbrev BufferOffset (c : Config) (off : Offset) : Prop :=
  (0x20000 ≤ off.toNat ∧ off.toNat < 0x20000 + c.pbufSize) ∨
  (0x40000 ≤ off.toNat ∧ off.toNat < 0x40000 + c.fbufSize)

/-- The cases of R58, by offset and width alone: unmapped or reserved, a wrong width or alignment, a write
to `STATUS`, `ACC`, `CSUM` or `FLEN`, or a write while busy. -/
abbrev Tx.Breaks (tx : Tx) (s : State) : Prop :=
  match tx with
  | .write32 off _ =>
    ¬ RegisterOffset off ∨ off.toNat = 0x04 ∨ off.toNat = 0x38 ∨ off.toNat = 0x3C ∨ off.toNat = 0x40 ∨
      s.status.busy = true
  | .read32 off => ¬ RegisterOffset off
  | .write16 _ _ => True
  | .read16 _ => True
  | .write8 off _ => ¬ BufferOffset s.cfg off ∨ s.status.busy = true
  | .read8 off => ¬ BufferOffset s.cfg off

/-- `STATUS` after a command that completed without error (R161): `PERR` is not touched. -/
def State.doneStatus (s : State) : Status :=
  { busy := false, done := true, err := false, perr := s.status.perr, ecode := .none }

/-- `STATUS` after a command error with `code` (R182): `PERR` is not touched. -/
def State.errStatus (s : State) (code : ECode) : Status :=
  { busy := false, done := false, err := true, perr := s.status.perr, ecode := code }

/-- `STATUS` after an accepted `CMD` write (R32). -/
def State.busyStatus (s : State) : Status :=
  { busy := true, done := false, err := false, perr := s.status.perr, ecode := .none }

/-- `STATUS` after a protocol error (R58). -/
def State.perrStatus (s : State) : Status := { s.status with perr := true }

/-- The true sum of the terms of a byte string, over the natural numbers (R100, R105). -/
def naturalSum : List Byte → Nat
  | [] => 0
  | [b] => b.toNat * 256
  | b0 :: b1 :: s => b0.toNat * 256 + b1.toNat + naturalSum s

/-- The 12-byte pseudo-header of R86 for a payload of `n` bytes. -/
def pseudoHeader (sip dip : Word) (n : Nat) : List Byte :=
  be32 sip ++ be32 dip ++ [0x00#8, 0x11#8] ++ be16 (BitVec.ofNat 16 (8 + n))

/-- The UDP header of R80 with checksum `ck`, from the ports alone (R124). -/
def udpHeaderOf (sport dport : Half) (n : Nat) (ck : Half) : List Byte :=
  be16 sport ++ be16 dport ++ be16 (BitVec.ofNat 16 (8 + n)) ++ be16 ck

end Sys2Proof.Machine
end

