-- ==== Sys2Proof/Certificates/Slice0/Obligations.lean ====
section
/-! DEFINITION. The statements for the provers, each with the rule of spec/ it formalises. -/

open Sys2Proof Sys2Proof.Machine

/-! ### Encoding -/

/-- Words written out from R70 to R72 decode to their commands, and the stray bits and reserved opcodes of
R87 are refused by name. -/
def Obligations.SampleWordsDecode : Prop :=
  decode 0x00000000#32 = .ok .nop ∧
  decode 0x00000001#32 = .ok .aclr ∧
  decode 0x00002002#32 = .ok (.aadd 0x0020#16) ∧
  decode 0x00FFFF02#32 = .ok (.aadd 0xFFFF#16) ∧
  decode 0x00000003#32 = .ok (.asum .pbuf) ∧
  decode 0x00000103#32 = .ok (.asum .fbuf) ∧
  decode 0x00000004#32 = .ok .afin ∧
  decode 0x00000005#32 = .ok (.cksum .pbuf) ∧
  decode 0x00000105#32 = .ok (.cksum .fbuf) ∧
  decode 0x00000006#32 = .ok .udpcs ∧
  decode 0x00000007#32 = .ok .build ∧
  decode 0x00000008#32 = .error (.reservedOpcode 0x08#8) ∧
  decode 0x00000107#32 = .error (.operandBits 0x07#8) ∧
  decode 0x01000002#32 = .error (.operandBits 0x02#8) ∧
  decode 0x00000203#32 = .error (.operandBits 0x03#8)

/-- Decoding the word of any command gives the command back, operands and all (R70, R71, R72). -/
def Obligations.DecodeOfEncodeIsTheCommand : Prop :=
  ∀ i : Instr, decode (encode i) = .ok i

/-- R162: `Decode` accepts a word exactly when it is, as a number, the word of R71 for that command; every
other word is illegal. -/
def Obligations.DecodeIsTheOpcodeMap : Prop :=
  ∀ (w : Word) (i : Instr), decode w = .ok i ↔
    w.toNat = (match i with
      | .nop => 0x00
      | .aclr => 0x01
      | .aadd imm16 => imm16.toNat * 256 + 0x02
      | .asum .pbuf => 0x03
      | .asum .fbuf => 256 + 0x03
      | .afin => 0x04
      | .cksum .pbuf => 0x05
      | .cksum .fbuf => 256 + 0x05
      | .udpcs => 0x06
      | .build => 0x07)

/-- R70 and R87: the decoder accepts exactly the words whose opcode is defined and whose must-be-zero bits
are 0, and a word it accepts belongs to its command's row of the opcode table and to no other row. -/
def Obligations.LegalWordsAreTheTableRows : Prop :=
  ∀ w : Word,
    (legalWord w = true ↔ ∃ i, decode w = .ok i) ∧
    (∀ i, decode w = .ok i → i.row.accepts w = true ∧ ∀ j : Instr, j.row.accepts w = true → j.row = i.row)

/-! ### The step, issue and completion -/

/-- R161, R162: a step is the oldest scheduled event. While busy, the engine's turn (scheduled, or because
nothing is) runs the decoded command; a host transaction is performed; `exec` sees the state less that
event, and an illegal latched word ends with `E_ILLCMD` (R183); a reset event resets the block. The schedule is
the model's own (log 5). -/
def Obligations.StepRunsTheScheduledEvent : Prop :=
  ∀ (s : State) (l : List Event),
    (∀ i, s.status.busy = true → decode s.cmdlatch = .ok i →
      (s.schedule = [] → step s = exec i s) ∧
      (s.schedule = .engine :: l → step s = exec i { s with schedule := l })) ∧
    (∀ e, s.status.busy = true → decode s.cmdlatch = .error e →
      (s.schedule = [] → step s = .next { s with status := s.errStatus .illCmd }) ∧
      (s.schedule = .engine :: l →
        step s = .next { s with status := s.errStatus .illCmd, schedule := l })) ∧
    (∀ tx, s.schedule = .host tx :: l → step s = .next (hostTransact tx { s with schedule := l })) ∧
    (s.schedule = .reset :: l → step s = .next (resetBlock { s with schedule := l }))

/-- A word placed for the next step is run by it as an accepted command (R27, R160; the placing is the
model's, log 8). -/
def Obligations.PlacedWordRunsNext : Prop :=
  ∀ (s : State) (w : Word) (i : Instr), decode w = .ok i →
    step (s.withFetchWord 32 w.toNat) = exec i { s with cmdlatch := w, status := s.busyStatus }

/-- R32: an idle block accepts a `CMD` write; a busy one drops it and sets `PERR`; a read of `CMD` returns
the last accepted word. -/
def Obligations.CmdWriteIsAcceptedOrDropped : Prop :=
  ∀ (s : State) (w : Word),
    (s.status.busy = false →
      hostTransact (.write32 0x00#19 w) s = { s with cmdlatch := w, status := s.busyStatus }) ∧
    (s.status.busy = true → hostTransact (.write32 0x00#19 w) s = { s with status := s.perrStatus }) ∧
    hostTransact (.read32 0x00#19) s = { s with replies := s.replies ++ [.word s.cmdlatch] }

/-- R183: an illegal word is accepted like any `CMD` write, the block goes busy, and the engine's step then
completes it with code 1, having changed nothing but `STATUS` and `CMDLATCH`; `STATUS` reads `0x14` when `PERR`
is 0. Both examples of the rule are illegal words. -/
def Obligations.IllegalWordEndsWithCodeOne : Prop :=
  (∀ (s : State) (w : Word), s.status.busy = false → (∀ i, decode w ≠ .ok i) →
    hostTransact (.write32 0x00#19 w) s = { s with cmdlatch := w, status := s.busyStatus } ∧
    engineTurn { s with cmdlatch := w, status := s.busyStatus } =
      .next { s with cmdlatch := w, status := s.errStatus .illCmd }) ∧
  (∀ s : State, s.status.perr = false → (s.errStatus .illCmd).word = 0x14#32) ∧
  (∀ i, decode 0x00000008#32 ≠ .ok i) ∧ (∀ i, decode 0x00000107#32 ≠ .ok i)

/-- R161: a command that completes without error leaves `BUSY` 0, `DONE` 1, `ERR` 0, `ECODE` 0 and `PERR` as
it was; the latch, the parameters, `PBUF` and the implementation parameters are never written. -/
def Obligations.CompletionStatus : Prop :=
  ∀ s t : State, complete s = .next t →
    (t.status = s.doneStatus ∨ ∃ code, code ≠ .none ∧ t.status = s.errStatus code) ∧
    t.cfg = s.cfg ∧ t.cmdlatch = s.cmdlatch ∧ t.params = s.params ∧ t.pbuf = s.pbuf ∧
    t.schedule = s.schedule ∧ t.replies = s.replies

/-- R182: a command that ends with an error, the illegal word among them, changes `STATUS` and nothing
else. -/
def Obligations.CommandErrorIsPrecise : Prop :=
  ∀ s t : State, complete s = .next t → t.status.err = true →
    t.status.ecode ≠ .none ∧ t = { s with status := s.errStatus t.status.ecode }

/-- R181, R188: which code each command reports, and in which order the tests are made; 0 when there is no
error; the word and the parameters stay readable. -/
def Obligations.CommandErrorCodes : Prop :=
  (∀ (i : Instr) (s t : State), exec i s = .next t →
    t.params = s.params ∧ t.cmdlatch = s.cmdlatch ∧
    t.status.ecode = (match i with
      | .nop => .none
      | .aclr => .none
      | .aadd _ => .none
      | .afin => .none
      | .asum .pbuf => if s.params.rbase.toNat + s.params.rlen.toNat > s.cfg.pbufSize then .region else .none
      | .asum .fbuf => if s.params.rbase.toNat + s.params.rlen.toNat > s.cfg.fbufSize then .region else .none
      | .cksum .pbuf => if s.params.rbase.toNat + s.params.rlen.toNat > s.cfg.pbufSize then .region else .none
      | .cksum .fbuf => if s.params.rbase.toNat + s.params.rlen.toNat > s.cfg.fbufSize then .region else .none
      | .udpcs =>
        if s.params.plen.toNat > 65507 ∨ s.params.plen.toNat > s.cfg.pbufSize then .len
        else if s.params.clen.toNat > s.params.plen.toNat then .cov
        else .none
      | .build =>
        if s.params.plen.toNat > 65507 ∨ s.params.plen.toNat > s.cfg.pbufSize ∨
          42 + s.params.plen.toNat > s.cfg.fbufSize then .len
        else if s.params.clen.toNat > s.params.plen.toNat then .cov
        else .none)) ∧
  (∀ s t : State, (∀ i, decode s.cmdlatch ≠ .ok i) → complete s = .next t →
    t.status.ecode = .illCmd ∧ t.cmdlatch = s.cmdlatch) ∧
  ECode.code .none = 0#4 ∧ ECode.code .illCmd = 1#4 ∧ ECode.code .len = 2#4 ∧ ECode.code .cov = 3#4 ∧
  ECode.code .region = 4#4

/-- R166, R161, R200: however the schedule interleaves the host, the engine and reset, when it has run out and the
engine has had one more turn the block is idle. When no reset is scheduled, a command in flight has not been
abandoned: a step of that run takes the block from busy with that very word latched to not busy, with `DONE` or
`ERR` set, and at the end of the run `DONE` or `ERR` is set. The schedule, and completion when it has run out,
are the model's (log 5). -/
def Obligations.AcceptedCommandsComplete : Prop :=
  ∀ s : State,
    (∃ t : State,
      Host.Core.run Sys2Proof.core (s.schedule.length + 1) s = .next t ∧
      t.status.busy = false ∧ t.schedule = [] ∧
      (s.status.busy = true → (∀ e ∈ s.schedule, e ≠ .reset) →
        t.status.done = true ∨ t.status.err = true)) ∧
    (s.status.busy = true → (∀ e ∈ s.schedule, e ≠ .reset) →
      ∃ (k : Nat) (u v : State), k ≤ s.schedule.length ∧
        Host.Core.run Sys2Proof.core k s = .next u ∧
        u.status.busy = true ∧ u.cmdlatch = s.cmdlatch ∧
        step u = .next v ∧ v.status.busy = false ∧ (v.status.done = true ∨ v.status.err = true))

/-- R167: an idle block with no host transaction stays idle and unchanged; the engine's turn does nothing. -/
def Obligations.IdleStaysIdle : Prop :=
  ∀ (s : State) (l : List Event), s.status.busy = false →
    (s.schedule = [] → step s = .next s) ∧
    (s.schedule = .engine :: l → step s = .next { s with schedule := l })

/-! ### Invariants and reset -/

/-- From every well-formed state a step gives a well-formed state: legal `STATUS` (R33), canonical buffers
inside their sizes (R35, R36), a frame of length `FLEN` wholly written (R31, R147), reset values while no
command has been accepted (R33, R201). -/
def Obligations.StepKeepsTheInvariant : Prop :=
  ∀ s t : State, s.Inv → step s = .next t → t.Inv

/-- The invariant holds right after reset, for every legal pair of implementation parameters and for the
reference pair (log 7). -/
def Obligations.ResetMeetsTheInvariant : Prop :=
  (∀ c : Config, c.Legal → (State.resetWith c).Inv) ∧ State.reset.Inv

/-- R33: where the fields of `STATUS` stand in the word a host reads, and that every step keeps to the four
allowed combinations, of which no two hold at once. -/
def Obligations.StatusFieldsAndCombinations : Prop :=
  (∀ x : Status,
    x.word.getLsbD 0 = x.busy ∧ x.word.getLsbD 1 = x.done ∧ x.word.getLsbD 2 = x.err ∧
    x.word.getLsbD 3 = x.perr ∧ x.word.extractLsb' 4 4 = x.ecode.code ∧ x.word.extractLsb' 8 24 = 0#24) ∧
  (∀ s t : State, s.status.Legal → step s = .next t → t.status.Legal ∧
    ¬ (t.status.busy = true ∧ t.status.done = true) ∧ ¬ (t.status.busy = true ∧ t.status.err = true) ∧
    ¬ (t.status.done = true ∧ t.status.err = true))

/-- R58, R161, R200: once set, `PERR` stays set by every step but the reset event, which clears it. -/
def Obligations.PerrIsStickyUntilReset : Prop :=
  ∀ s t : State, step s = .next t →
    (s.status.perr = true → (∀ l, s.schedule ≠ .reset :: l) → t.status.perr = true) ∧
    (∀ l, s.schedule = .reset :: l → t.status.perr = false)

/-- R201 (with R39, R200): a reset, of a block in any state, gives every register its reset value, abandons a
command in flight and leaves every buffer byte unwritten, so without a value (U1); the implementation parameters
stay. The same values hold in the state the machine starts from, whatever its parameters. -/
def Obligations.ResetValues : Prop :=
  (∀ s t : State, t = resetBlock s →
      t.cmdlatch = 0#32 ∧
      t.status = { busy := false, done := false, err := false, perr := false, ecode := .none } ∧
      t.params = { dmac := 0#48, smac := 0#48, sip := 0#32, dip := 0#32, sport := 0#16, dport := 0#16,
                   plen := 0#32, clen := 0#32, rbase := 0#32, rlen := 0#32 } ∧
      t.acc = 0#32 ∧ t.csum = 0#16 ∧ t.flen = 0#32 ∧
      (∀ k, t.pbuf.get? k = none ∧ t.fbuf.get? k = none) ∧
      t.cfg = s.cfg) ∧
  (∀ (c : Config) (t : State), t = State.resetWith c →
      t.cmdlatch = 0#32 ∧ t.status.word = 0#32 ∧ t.params = ParamRegs.reset ∧
      t.acc = 0#32 ∧ t.csum = 0#16 ∧ t.flen = 0#32 ∧
      ∀ k, t.pbuf.get? k = none ∧ t.fbuf.get? k = none)

/-! ### What each command does -/

/-- R163: `NOP`, the word `0x00000000`, completes and changes nothing but `STATUS`; it clears `ERR` and `ECODE`
and not `PERR`. `CMDLATCH` holds its word after reset although no command has run. -/
def Obligations.NopCompletes : Prop :=
  (∀ s : State, exec .nop s = .next { s with status := s.doneStatus }) ∧
  decode 0x00000000#32 = .ok .nop ∧
  (∀ c : Config, (State.resetWith c).cmdlatch = 0x00000000#32 ∧ (State.resetWith c).status.done = false)

/-- R107: `ACLR`, the word `0x00000001`, completes with `ACC = 0` and nothing else changed, `CSUM` included. -/
def Obligations.AclrCompletes : Prop :=
  (∀ s : State, exec .aclr s = .next { s with acc := 0#32, status := s.doneStatus }) ∧
  decode 0x00000001#32 = .ok .aclr

/-- R108 (with R15): `AADD imm16`, the word `(imm16 << 8) | 0x02`, completes with the sum in `ACC`, the carry out
of bit 31 added back in, and nothing else changed. -/
def Obligations.AaddCompletes : Prop :=
  ∀ (s : State) (imm16 : Half),
    exec (.aadd imm16) s = .next
      { s with
        acc := BitVec.ofNat 32 (if s.acc.toNat + imm16.toNat < 2 ^ 32 then s.acc.toNat + imm16.toNat
          else s.acc.toNat + imm16.toNat - 2 ^ 32 + 1)
        status := s.doneStatus } ∧
    decode (BitVec.ofNat 32 (imm16.toNat * 256 + 0x02)) = .ok (.aadd imm16)

/-- R109 (with R106): `ASUM sel`, the words `0x00000003` and `0x00000103`, completes with `SumBytes(ACC, region)`
in `ACC` when the region fits the selected buffer, and ends with `E_REGION`, nothing else changed, when it does
not. An unwritten byte of the region is any value (U1), drawn by the model's `fresh` (log 1, 4). -/
def Obligations.AsumCompletes : Prop :=
  ∀ (s : State) (sel : BufSel) (m : Memory) (size : Nat),
    (sel = .pbuf → m = s.pbuf ∧ size = s.cfg.pbufSize) →
    (sel = .fbuf → m = s.fbuf ∧ size = s.cfg.fbufSize) →
    (s.params.rbase.toNat + s.params.rlen.toNat ≤ size →
      ∃ n, exec (.asum sel) s = .next
        { s with
          acc := sumBytes s.acc (m.read s.fresh s.params.rbase.toNat s.params.rlen.toNat).1
          fresh := n
          status := s.doneStatus }) ∧
    (size < s.params.rbase.toNat + s.params.rlen.toNat →
      exec (.asum sel) s = .next { s with status := s.errStatus .region }) ∧
    decode 0x00000003#32 = .ok (.asum .pbuf) ∧ decode 0x00000103#32 = .ok (.asum .fbuf)

/-- R110: `AFIN`, the word `0x00000004`, completes with the folded sum in `ACC` and its complement in `CSUM`,
nothing else changed; a second one gives the same, and the terms added after it continue to the same finished
value. -/
def Obligations.AfinCompletes : Prop :=
  (∀ s : State, exec .afin s = .next
    { s with
      acc := BitVec.ofNat 32 (fold s.acc).toNat
      csum := BitVec.ofNat 16 (0xFFFF - (fold s.acc).toNat)
      status := s.doneStatus }) ∧
  decode 0x00000004#32 = .ok .afin ∧
  (∀ (a : Word) (ts : List Half),
    fold (addTerms (BitVec.ofNat 32 (fold a).toNat) ts) = fold (addTerms a ts))

/-- R121 (with R120, R106): `CKSUM sel`, the words `0x00000005` and `0x00000105`, completes with the folded sum of the region in `ACC` and the generic
checksum in `CSUM`, or ends with `E_REGION`, nothing else changed. An unwritten byte of the region is any
value (U1), drawn by the model's `fresh` (log 1, 4). -/
def Obligations.CksumCompletes : Prop :=
  ∀ (s : State) (sel : BufSel) (m : Memory) (size : Nat),
    (sel = .pbuf → m = s.pbuf ∧ size = s.cfg.pbufSize) →
    (sel = .fbuf → m = s.fbuf ∧ size = s.cfg.fbufSize) →
    (s.params.rbase.toNat + s.params.rlen.toNat ≤ size →
      ∃ (f : Half) (n : Nat),
        f = fold (sumBytes 0#32 (m.read s.fresh s.params.rbase.toNat s.params.rlen.toNat).1) ∧
        exec (.cksum sel) s = .next
          { s with
            acc := BitVec.ofNat 32 f.toNat
            csum := BitVec.ofNat 16 (0xFFFF - f.toNat)
            fresh := n
            status := s.doneStatus }) ∧
    (size < s.params.rbase.toNat + s.params.rlen.toNat →
      exec (.cksum sel) s = .next { s with status := s.errStatus .region }) ∧
    decode 0x00000005#32 = .ok (.cksum .pbuf) ∧ decode 0x00000105#32 = .ok (.cksum .fbuf)

/-- R127 (with R122, R126): `UDPCS`, the word `0x00000006`, completes with the folded UDP sum in `ACC` and the UDP
checksum in `CSUM`, taking `CLEN` as it stands; it ends with `E_LEN`, tested first, or with `E_COV`. An unwritten covered
byte is any value (U1), drawn by the model's `fresh` (log 1, 4). -/
def Obligations.UdpcsCompletes : Prop :=
  ∀ s : State,
    (s.params.plen.toNat ≤ 65507 → s.params.plen.toNat ≤ s.cfg.pbufSize →
      s.params.clen.toNat ≤ s.params.plen.toNat →
      ∃ (f : Half) (n : Nat),
        f = fold (udpSum s.params.sip s.params.dip s.params.sport s.params.dport s.params.plen.toNat
          (s.pbuf.read s.fresh 0 s.params.clen.toNat).1) ∧
        exec .udpcs s = .next
          { s with
            acc := BitVec.ofNat 32 f.toNat
            csum := BitVec.ofNat 16 (0xFFFF - f.toNat)
            fresh := n
            status := s.doneStatus }) ∧
    (s.params.plen.toNat > 65507 ∨ s.params.plen.toNat > s.cfg.pbufSize →
      exec .udpcs s = .next { s with status := s.errStatus .len }) ∧
    (s.params.plen.toNat ≤ 65507 → s.params.plen.toNat ≤ s.cfg.pbufSize →
      s.params.clen.toNat > s.params.plen.toNat →
      exec .udpcs s = .next { s with status := s.errStatus .cov }) ∧
    decode 0x00000006#32 = .ok .udpcs

/-- R145 (with R142, R144): what a successful `BUILD` leaves: `FLEN = 42 + N`; `CSUM` the UDP checksum,
which is the one stored at `FBUF[40..41]`; `ACC` the folded UDP sum over the defaulted coverage; the
parameter registers and `PBUF` unchanged. The IPv4 header checksum is read from `FBUF[24..25]`.
An unwritten covered byte is any value (U1), drawn by the model's `fresh`, the covered bytes before those that
are copied (log 1, 4, 13). -/
def Obligations.BuildCompletes : Prop :=
  ∀ (s : State) (cov : Nat) (f : Half),
    s.params.plen.toNat ≤ 65507 → s.params.plen.toNat ≤ s.cfg.pbufSize →
    42 + s.params.plen.toNat ≤ s.cfg.fbufSize → s.params.clen.toNat ≤ s.params.plen.toNat →
    cov = (if s.params.clen = 0#32 then s.params.plen.toNat else s.params.clen.toNat) →
    f = fold (udpSum s.params.sip s.params.dip s.params.sport s.params.dport s.params.plen.toNat
      (s.pbuf.read s.fresh 0 cov).1) →
    ∃ t, exec .build s = .next t ∧
      t.status = s.doneStatus ∧
      t.flen.toNat = 42 + s.params.plen.toNat ∧
      t.csum.toNat = 0xFFFF - f.toNat ∧
      t.acc.toNat = f.toNat ∧
      t.fbuf.get? 40 = some (t.csum.extractLsb' 8 8) ∧
      t.fbuf.get? 41 = some (t.csum.extractLsb' 0 8) ∧
      t.fbuf.get? 24 = some ((ipChecksum s.params s.params.plen.toNat).extractLsb' 8 8) ∧
      t.fbuf.get? 25 = some ((ipChecksum s.params s.params.plen.toNat).extractLsb' 0 8) ∧
      t.params = s.params ∧ t.pbuf = s.pbuf ∧ t.cmdlatch = s.cmdlatch ∧ t.cfg = s.cfg ∧
      t.schedule = s.schedule ∧ t.replies = s.replies

/-! ### Frames of the commands -/

/-- R61: `NOP`, `ACLR`, `AADD` and `ASUM` write `STATUS` and, but for `NOP`, `ACC`; every other register, the
latch, every protocol flag and every byte of both buffers is unchanged. -/
def Obligations.AccumulatorCommandsFrame : Prop :=
  ∀ (i : Instr) (s t : State), exec i s = .next t →
    (i = .nop ∨ i = .aclr ∨ (∃ imm16, i = .aadd imm16) ∨ (∃ sel, i = .asum sel)) →
    (i = .nop → t.acc = s.acc) ∧
    t.csum = s.csum ∧ t.flen = s.flen ∧ t.params = s.params ∧ t.cmdlatch = s.cmdlatch ∧ t.cfg = s.cfg ∧
    t.status.perr = s.status.perr ∧
    (∀ a, t.pbuf.get? a = s.pbuf.get? a ∧ t.fbuf.get? a = s.fbuf.get? a) ∧ t.pbuf = s.pbuf ∧ t.fbuf = s.fbuf

/-- R61: `AFIN`, `CKSUM` and `UDPCS` write `STATUS`, `ACC` and `CSUM` alone; every other register, the latch
and every byte of both buffers is unchanged. -/
def Obligations.ChecksumCommandsFrame : Prop :=
  ∀ (i : Instr) (s t : State), exec i s = .next t →
    (i = .afin ∨ (∃ sel, i = .cksum sel) ∨ i = .udpcs) →
    t.flen = s.flen ∧ t.params = s.params ∧ t.cmdlatch = s.cmdlatch ∧ t.cfg = s.cfg ∧
    t.status.perr = s.status.perr ∧
    (∀ a, t.pbuf.get? a = s.pbuf.get? a ∧ t.fbuf.get? a = s.fbuf.get? a) ∧ t.pbuf = s.pbuf ∧ t.fbuf = s.fbuf

/-- R61, R147, R148: `BUILD` writes `STATUS`, `ACC`, `CSUM`, `FLEN` and, when it succeeds, exactly the bytes
`FBUF[0 .. 41+N]`; when it fails it writes no byte, and everything else is unchanged. -/
def Obligations.BuildFrame : Prop :=
  ∀ s t : State, exec .build s = .next t →
    t.params = s.params ∧ t.cmdlatch = s.cmdlatch ∧ t.cfg = s.cfg ∧ t.status.perr = s.status.perr ∧
    t.pbuf = s.pbuf ∧
    (∀ a, 42 + s.params.plen.toNat ≤ a → t.fbuf.get? a = s.fbuf.get? a) ∧
    (t.status.err = false → ∀ a, a < 42 + s.params.plen.toNat → (t.fbuf.get? a).isSome = true) ∧
    (t.status.err = true →
      t.fbuf = s.fbuf ∧ t.flen = s.flen ∧ t.csum = s.csum ∧ t.acc = s.acc)

/-! ### The frame -/

/-- R73, R75, R80, R81: the bytes a successful `BUILD` puts at each `FBUF` offset. The protocol number and
the offsets inside the IPv4 and UDP headers are the spec's own G1, G2 and G3 (log 11). -/
def Obligations.BuildLaysOutTheFrame : Prop :=
  ∀ (s t : State) (n : Nat), n = s.params.plen.toNat → exec .build s = .next t → t.status.err = false →
    (∀ k < 6, t.fbuf.get? k = some (s.params.dmac.extractLsb' (40 - 8 * k) 8)) ∧
    (∀ k < 6, t.fbuf.get? (6 + k) = some (s.params.smac.extractLsb' (40 - 8 * k) 8)) ∧
    t.fbuf.get? 12 = some 0x08#8 ∧ t.fbuf.get? 13 = some 0x00#8 ∧
    t.fbuf.get? 14 = some 0x45#8 ∧ t.fbuf.get? 15 = some 0x00#8 ∧
    t.fbuf.get? 16 = some (BitVec.ofNat 8 ((28 + n) / 256)) ∧
    t.fbuf.get? 17 = some (BitVec.ofNat 8 ((28 + n) % 256)) ∧
    (∀ k < 4, t.fbuf.get? (18 + k) = some 0x00#8) ∧
    t.fbuf.get? 22 = some 0xFF#8 ∧ t.fbuf.get? 23 = some 0x11#8 ∧
    t.fbuf.get? 24 = some ((ipChecksum s.params n).extractLsb' 8 8) ∧
    t.fbuf.get? 25 = some ((ipChecksum s.params n).extractLsb' 0 8) ∧
    (∀ k < 4, t.fbuf.get? (26 + k) = some (s.params.sip.extractLsb' (24 - 8 * k) 8)) ∧
    (∀ k < 4, t.fbuf.get? (30 + k) = some (s.params.dip.extractLsb' (24 - 8 * k) 8)) ∧
    t.fbuf.get? 34 = some (s.params.sport.extractLsb' 8 8) ∧
    t.fbuf.get? 35 = some (s.params.sport.extractLsb' 0 8) ∧
    t.fbuf.get? 36 = some (s.params.dport.extractLsb' 8 8) ∧
    t.fbuf.get? 37 = some (s.params.dport.extractLsb' 0 8) ∧
    t.fbuf.get? 38 = some (BitVec.ofNat 8 ((8 + n) / 256)) ∧
    t.fbuf.get? 39 = some (BitVec.ofNat 8 ((8 + n) % 256)) ∧
    t.fbuf.get? 40 = some (t.csum.extractLsb' 8 8) ∧
    t.fbuf.get? 41 = some (t.csum.extractLsb' 0 8) ∧
    (∀ (k : Nat) (b : Byte), k < n → s.pbuf.get? k = some b → t.fbuf.get? (42 + k) = some b)

/-- R77: the IPv4 header checksum is the checksum of the header with its own field at zero, equals the closed
form, and is never `0xFFFF`. -/
def Obligations.IpChecksumClosedForm : Prop :=
  ∀ (p : ParamRegs) (n : Nat), n ≤ 65507 →
    ipChecksum p n = finish (sumBytes 0#32 (ipHeader p n 0#16)) ∧
    ipChecksum p n = finish (BitVec.ofNat 32
      (0x4500 + (28 + n) + 0xFF11 + p.sip.toNat / 65536 + p.sip.toNat % 65536 + p.dip.toNat / 65536
        + p.dip.toNat % 65536)) ∧
    ipChecksum p n ≠ 0xFFFF#16

/-- R112 on the machine: after a successful `BUILD`, `CKSUM` over `FBUF[14..33]`, the IPv4 header with its
checksum in place, completes with `CSUM = 0`. -/
def Obligations.BuiltHeaderVerifies : Prop :=
  ∀ (s : State),
    s.params.plen.toNat ≤ 65507 → s.params.plen.toNat ≤ s.cfg.pbufSize →
    42 + s.params.plen.toNat ≤ s.cfg.fbufSize → s.params.clen.toNat ≤ s.params.plen.toNat →
    ∃ t u, exec .build s = .next t ∧
      exec (.cksum .fbuf) { t with params := { t.params with rbase := 14#32, rlen := 20#32 } } = .next u ∧
      u.status.done = true ∧ u.csum = 0x0000#16 ∧ u.acc = 0x0000FFFF#32

/-- R147: every byte a `BUILD` writes, and `FLEN`, `CSUM`, `ACC`, are functions of the eight operand registers
and `PBUF[0 .. N-1]`: two states that agree on those (and draw the same free values for unwritten bytes, log 1)
give the same frame, whatever the rest held. -/
def Obligations.BuildDependsOnItsOperandsOnly : Prop :=
  ∀ s s' t t' : State,
    s.cfg = s'.cfg → s.fresh = s'.fresh →
    s.params.dmac = s'.params.dmac → s.params.smac = s'.params.smac → s.params.sip = s'.params.sip →
    s.params.dip = s'.params.dip → s.params.sport = s'.params.sport → s.params.dport = s'.params.dport →
    s.params.plen = s'.params.plen → s.params.clen = s'.params.clen →
    (∀ k, k < s.params.plen.toNat → s.pbuf.get? k = s'.pbuf.get? k) →
    exec .build s = .next t → exec .build s' = .next t' → t.status.err = false →
    t'.status.err = false ∧ t.flen = t'.flen ∧ t.csum = t'.csum ∧ t.acc = t'.acc ∧
    ∀ a, a < 42 + s.params.plen.toNat → t.fbuf.get? a = t'.fbuf.get? a

/-- R146: for every payload length up to `FBUF_SIZE - 42` a `BUILD` with `CLEN <= N` succeeds with
`FLEN = 42 + N`; for every larger one it ends with `E_LEN`. -/
def Obligations.BuildLengthInvariant : Prop :=
  ∀ s : State, s.cfg.Legal →
    (s.params.plen.toNat ≤ s.cfg.fbufSize - 42 → s.params.clen.toNat ≤ s.params.plen.toNat →
      ∃ t, exec .build s = .next t ∧ t.status = s.doneStatus ∧ t.flen.toNat = 42 + s.params.plen.toNat) ∧
    (s.cfg.fbufSize - 42 < s.params.plen.toNat →
      exec .build s = .next { s with status := s.errStatus .len })

/-- R149 (and R142): `BUILD` with `CLEN = 0` and with `CLEN = PLEN` write the same frame and leave the same
`FLEN`, `CSUM` and `ACC`. Where a payload byte has not been written, U1 promises nothing of the kind: the two runs
agree in the model because both draw the same free values (log 1, 4, 13). -/
def Obligations.ZeroCoverageMeansFullCoverage : Prop :=
  ∀ s : State,
    s.params.plen.toNat ≤ 65507 → s.params.plen.toNat ≤ s.cfg.pbufSize →
    42 + s.params.plen.toNat ≤ s.cfg.fbufSize →
    ∃ t u,
      exec .build { s with params := { s.params with clen := 0#32 } } = .next t ∧
      exec .build { s with params := { s.params with clen := s.params.plen } } = .next u ∧
      t.status.err = false ∧ u.status.err = false ∧
      t.fbuf = u.fbuf ∧ t.flen = u.flen ∧ t.csum = u.csum ∧ t.acc = u.acc

/-- R131: a computed UDP checksum of zero is not replaced by `0xFFFF`: `UDPCS` and `BUILD` report `CSUM = 0`,
and `BUILD` stores `0x00, 0x00` at `FBUF[40..41]`. The sum of a `BUILD` is that of the covered bytes as it reads
them, an unwritten one being any value (U1), drawn by the model's `fresh` (log 1, 4, 13). -/
def Obligations.ZeroChecksumIsKept : Prop :=
  (∀ s t : State, exec .udpcs s = .next t → t.status.err = false → t.acc = 0x0000FFFF#32 → t.csum = 0x0000#16) ∧
  (∀ s : State,
    s.params.plen.toNat ≤ 65507 → s.params.plen.toNat ≤ s.cfg.pbufSize →
    42 + s.params.plen.toNat ≤ s.cfg.fbufSize → s.params.clen.toNat ≤ s.params.plen.toNat →
    fold (udpSum s.params.sip s.params.dip s.params.sport s.params.dport s.params.plen.toNat
      (s.pbuf.read s.fresh 0
        (if s.params.clen = 0#32 then s.params.plen.toNat else s.params.clen.toNat)).1) = 0xFFFF#16 →
    ∃ t, exec .build s = .next t ∧ t.status.err = false ∧ t.csum = 0x0000#16 ∧
      t.fbuf.get? 40 = some 0x00#8 ∧ t.fbuf.get? 41 = some 0x00#8)

/-! ### Sequences of commands -/

/-- R121: `CKSUM sel` equals `ACLR ; ASUM sel ; AFIN` executed with nothing in between. Where a byte of the region
has not been written, U1 promises no stability: the two runs agree in the model because both draw the same free
values (log 1, 4). -/
def Obligations.CksumIsClearSumFinish : Prop :=
  ∀ (s : State) (sel : BufSel), s.RegionValid sel →
    ∃ t1 t2 t3, exec .aclr s = .next t1 ∧ exec (.asum sel) t1 = .next t2 ∧ exec .afin t2 = .next t3 ∧
      exec (.cksum sel) s = .next t3

/-- R110's corner case: `AFIN` a second time changes nothing, since the fold of a folded value is itself. -/
def Obligations.FinishTwiceIsFinishOnce : Prop :=
  ∀ s : State, ∃ t, exec .afin s = .next t ∧ exec .afin t = .next t

/-- R109's corner case: two `ASUM` commands over adjacent regions, the first of even length, leave the `ACC`
that one over their union leaves. Where a byte has not been written, U1 promises no stability: the two runs agree
in the model because both draw the same free values, the second `ASUM` going on where the first stopped
(log 1, 4). -/
def Obligations.EvenRegionsAddUp : Prop :=
  ∀ (s : State) (sel : BufSel) (k : Nat), s.cfg.Legal → s.RegionValid sel →
    k ≤ s.params.rlen.toNat → k % 2 = 0 →
    ∃ t1 t2 u,
      exec (.asum sel) { s with params := { s.params with rlen := BitVec.ofNat 32 k } } = .next t1 ∧
      exec (.asum sel)
        { t1 with
          params :=
            { s.params with
              rbase := BitVec.ofNat 32 (s.params.rbase.toNat + k)
              rlen := BitVec.ofNat 32 (s.params.rlen.toNat - k) } } = .next t2 ∧
      exec (.asum sel) s = .next u ∧ t2.acc = u.acc

/-- R13, R39, U1: a read of a range of written bytes returns the stored bytes and draws no free value; an
unwritten byte read once draws one (the drawing is the model's, log 1). -/
def Obligations.ReadsReturnStoredBytes : Prop :=
  (∀ (m : Memory) (fresh a n : Nat), m.Written a n →
    (m.read fresh a n).2 = fresh ∧ ∀ k, k < n → (m.read fresh a n).1[k]? = m.get? (a + k)) ∧
  (∀ (m : Memory) (fresh a : Nat), m.get? a = none → (m.readByte fresh a).2 = fresh + 1)

/-! ### Checksum arithmetic -/

/-- R101: `AccAdd` is the sum with the carry out of bit 31 added back; (a) it is congruent to the sum modulo
65535; (b) it is 0 only when both are; hence `Fold` of the accumulator is what an accumulator of unbounded
width would give. -/
def Obligations.AccAddIsEndAroundCarry : Prop :=
  (∀ (a : Word) (w : Half),
    (accAdd a w).toNat =
      (if a.toNat + w.toNat < 2 ^ 32 then a.toNat + w.toNat else a.toNat + w.toNat - 2 ^ 32 + 1) ∧
    (accAdd a w).toNat % 65535 = (a.toNat + w.toNat) % 65535 ∧
    (accAdd a w = 0#32 → a = 0#32 ∧ w = 0#16)) ∧
  (∀ (ts : List Half) (total : Nat), total = (ts.map BitVec.toNat).sum →
    (fold (addTerms 0#32 ts)).toNat = foldLoop total total)

/-- R102: the finished value of terms added to zero: 0 when all are 0, else the number between 1 and `0xFFFF`
congruent to their sum modulo 65535; so it does not depend on their order or grouping. -/
def Obligations.FinishedSumValue : Prop :=
  (∀ ts : List Half,
    ((∀ w ∈ ts, w = 0#16) → fold (addTerms 0#32 ts) = 0#16) ∧
    ((∃ w ∈ ts, w ≠ 0#16) →
      1 ≤ (fold (addTerms 0#32 ts)).toNat ∧
      (fold (addTerms 0#32 ts)).toNat % 65535 = (ts.map BitVec.toNat).sum % 65535)) ∧
  (∀ ts us : List Half, ts.Perm us → fold (addTerms 0#32 ts) = fold (addTerms 0#32 us))

/-- R103: `Cpl16(v) = 0xFFFF - v = v xor 0xFFFF`; `Finish(0) = 0xFFFF`; `Finish(a) = 0` exactly when
`Fold(a) = 0xFFFF`, that is, exactly for terms that are not all zero and whose total is a multiple of 65535. -/
def Obligations.ComplementAndFinish : Prop :=
  (∀ v : Half, (cpl16 v).toNat = 0xFFFF - v.toNat ∧ cpl16 v = v ^^^ 0xFFFF#16) ∧
  finish 0#32 = 0xFFFF#16 ∧
  (∀ a : Word, finish a = cpl16 (fold a) ∧ (finish a = 0x0000#16 ↔ fold a = 0xFFFF#16)) ∧
  (∀ ts : List Half, finish (addTerms 0#32 ts) = 0x0000#16 ↔
    (∃ w ∈ ts, w ≠ 0#16) ∧ (ts.map BitVec.toNat).sum % 65535 = 0)

/-- R104: the loop of `Fold` stops after at most two passes with a 16-bit value, and one pass is not enough
in general (the bound the model puts on the loop is therefore never reached, log 23). -/
def Obligations.FoldNeedsAtMostTwoPasses : Prop :=
  (∀ a : Word,
    foldLoop 2 a.toNat < 65536 ∧ (fold a).toNat = foldLoop 2 a.toNat ∧
    ∀ passes, 2 ≤ passes → foldLoop passes a.toNat = foldLoop 2 a.toNat) ∧
  (∃ a : Word, 65536 ≤ foldLoop 1 a.toNat)

/-- R105 (and R109): an odd-length string sums as if one zero byte followed it, and a string of even length
sums separately from what follows it. -/
def Obligations.SumBytesPairsFromTheStart : Prop :=
  (∀ (a : Word) (bs : List Byte), bs.length % 2 = 1 → sumBytes a (bs ++ [0x00#8]) = sumBytes a bs) ∧
  (∀ (a : Word) (bs cs : List Byte), bs.length % 2 = 0 →
    sumBytes a (bs ++ cs) = sumBytes (sumBytes a bs) cs)

/-- R111: inside one command the accumulator never wraps: the sum of at most 131072 bytes from zero, and the
UDP sum of at most 65507, are the true sums. -/
def Obligations.CommandSumsNeverWrap : Prop :=
  (∀ bs : List Byte, bs.length ≤ 131072 → (sumBytes 0#32 bs).toNat = naturalSum bs) ∧
  (∀ (sip dip : Word) (sport dport : Half) (n : Nat) (bs : List Byte), n ≤ 65507 → bs.length ≤ n →
    (udpSum sip dip sport dport n bs).toNat =
      sip.toNat / 65536 + sip.toNat % 65536 + dip.toNat / 65536 + dip.toNat % 65536 + 0x11 + (8 + n)
        + sport.toNat + dport.toNat + (8 + n) + naturalSum bs)

/-- R112: a checksum written into its own zeroed 16-bit field, at an even position of an even-length string,
makes the checksum of the whole string 0. -/
def Obligations.ChecksumSelfVerifies : Prop :=
  ∀ (before after : List Byte) (c : Half),
    before.length % 2 = 0 → after.length % 2 = 0 →
    c = finish (sumBytes 0#32 (before ++ [0x00#8, 0x00#8] ++ after)) →
    finish (sumBytes 0#32 (before ++ be16 c ++ after)) = 0x0000#16

/-- R124: the field-by-field UDP sum equals, exactly, the sum of the serialised pseudo-header, the UDP header
with its checksum field zero, and the covered payload (layout G4, log 11). -/
def Obligations.UdpSumIsTheCanonicalSum : Prop :=
  ∀ (sip dip : Word) (sport dport : Half) (n : Nat) (covered : List Byte), n ≤ 65507 → covered.length ≤ n →
    udpSum sip dip sport dport n covered =
      sumBytes 0#32 (pseudoHeader sip dip n ++ udpHeaderOf sport dport n 0#16 ++ covered)

/-- R133: with the UDP checksum in its field, the generic checksum of pseudo-header, UDP header and covered
payload is 0, for even and odd coverage. -/
def Obligations.UdpChecksumSelfVerifies : Prop :=
  ∀ (sip dip : Word) (sport dport : Half) (n : Nat) (covered : List Byte) (c : Half),
    n ≤ 65507 → covered.length ≤ n → c = finish (udpSum sip dip sport dport n covered) →
    finish (sumBytes 0#32 (pseudoHeader sip dip n ++ udpHeaderOf sport dport n c ++ covered)) = 0x0000#16

/-- R129: when every byte of the uncovered tail is zero, the checksum of the covered part is the
full-coverage checksum, for even and odd coverage. -/
def Obligations.ZeroTailNeedsNoCoverage : Prop :=
  ∀ (sip dip : Word) (sport dport : Half) (n : Nat) (covered tail : List Byte),
    covered.length + tail.length = n → (∀ b ∈ tail, b = 0x00#8) →
    finish (udpSum sip dip sport dport n covered) = finish (udpSum sip dip sport dport n (covered ++ tail))

/-! ### The host interface -/

/-- R58 (with R50, R57): a transaction sets `PERR` exactly in the listed cases. It then has no other effect on
the block (a read answers some value, U3; `replies` and `fresh` are the model's own); in every other case, and
when a command completes, `PERR` keeps its value. -/
def Obligations.ProtocolErrorsAreExactlyTheListed : Prop :=
  (∀ (tx : Tx) (s : State),
    (tx.Breaks s → tx.isWrite = true → hostTransact tx s = { s with status := s.perrStatus }) ∧
    (tx.Breaks s → tx.isWrite = false →
      ∃ r n, hostTransact tx s =
        { s with status := s.perrStatus, replies := s.replies ++ [r], fresh := n }) ∧
    (¬ tx.Breaks s → (hostTransact tx s).status.perr = s.status.perr)) ∧
  (∀ s t : State, complete s = .next t → t.status.perr = s.status.perr)

/-- R58 case 4: while busy every write, whatever its target, is dropped and sets `PERR`. -/
def Obligations.BusyWritesAreDropped : Prop :=
  ∀ (tx : Tx) (s : State), s.status.busy = true → tx.isWrite = true →
    hostTransact tx s = { s with status := s.perrStatus }

/-- R62 (b): whatever the host does while a command is in flight, the engine finds the latch, the parameters,
both buffers and the result registers as they were, and the block still busy. -/
def Obligations.BusyWindowKeepsTheOperands : Prop :=
  ∀ (txs : List Tx) (s t : State), s.status.busy = true →
    t = txs.foldl (fun u tx => hostTransact tx u) s →
    t.status.busy = true ∧ t.cmdlatch = s.cmdlatch ∧ t.params = s.params ∧ t.pbuf = s.pbuf ∧
    t.fbuf = s.fbuf ∧ t.acc = s.acc ∧ t.csum = s.csum ∧ t.flen = s.flen ∧ t.cfg = s.cfg

/-- R60: a read, allowed or not, has no side effect: it appends one answer (and counts the free value it may
draw), and at most sets `PERR`. -/
def Obligations.ReadsHaveNoSideEffect : Prop :=
  ∀ (tx : Tx) (s : State), tx.isWrite = false →
    ∃ r n, s.fresh ≤ n ∧
      (hostTransact tx s = { s with replies := s.replies ++ [r], fresh := n } ∨
       hostTransact tx s = { s with replies := s.replies ++ [r], fresh := n, status := s.perrStatus })

/-- R59: what a read returns while busy: the current `STATUS` and latch, the stored parameters and `PBUF`
bytes; for `ACC`, `CSUM`, `FLEN` and `FBUF` a value nothing constrains (U2, log 2); no `PERR`. While not busy every
location returns its stored value: each register of R21 at its offset, zero-extended (R22 to R33), and each
written byte of either buffer. The parameter registers do so at all times. -/
def Obligations.BusyReads : Prop :=
  (∀ s : State, s.status.busy = true →
    hostTransact (.read32 0x04#19) s = { s with replies := s.replies ++ [.word s.status.word] } ∧
    hostTransact (.read32 0x00#19) s = { s with replies := s.replies ++ [.word s.cmdlatch] } ∧
    (∀ off ∈ [0x08#19, 0x0C#19, 0x10#19, 0x14#19, 0x18#19, 0x1C#19, 0x20#19, 0x24#19, 0x28#19, 0x2C#19,
        0x30#19, 0x34#19], ∃ v, hostTransact (.read32 off) s = { s with replies := s.replies ++ [.word v] } ∧
        hostTransact (.read32 off) { s with status := s.doneStatus } =
          { s with status := s.doneStatus, replies := s.replies ++ [.word v] }) ∧
    (∀ (i : Nat) (b : Byte), i < s.cfg.pbufSize → i < 0x20000 → s.pbuf.get? i = some b →
      hostTransact (.read8 (BitVec.ofNat 19 (0x20000 + i))) s =
        { s with replies := s.replies ++ [.byte b] }) ∧
    (∀ off ∈ [0x38#19, 0x3C#19, 0x40#19], hostTransact (.read32 off) s =
      { s with replies := s.replies ++ [.word (Config.freeWord s.fresh)], fresh := s.fresh + 1 }) ∧
    (s.cfg.Legal → ∀ i : Nat, i < s.cfg.fbufSize →
      hostTransact (.read8 (BitVec.ofNat 19 (0x40000 + i))) s =
        { s with replies := s.replies ++ [.byte (Config.freeByte s.fresh)], fresh := s.fresh + 1 })) ∧
  (∀ s : State, s.status.busy = false →
    (∀ p ∈ [(0x00#19, s.cmdlatch), (0x04#19, s.status.word), (0x38#19, s.acc),
        (0x3C#19, BitVec.ofNat 32 s.csum.toNat), (0x40#19, s.flen)],
      hostTransact (.read32 p.1) s = { s with replies := s.replies ++ [.word p.2] }) ∧
    (s.cfg.Legal → ∀ (i : Nat) (b : Byte),
      (i < s.cfg.pbufSize → s.pbuf.get? i = some b →
        hostTransact (.read8 (BitVec.ofNat 19 (0x20000 + i))) s =
          { s with replies := s.replies ++ [.byte b] }) ∧
      (i < s.cfg.fbufSize → s.fbuf.get? i = some b →
        hostTransact (.read8 (BitVec.ofNat 19 (0x40000 + i))) s =
          { s with replies := s.replies ++ [.byte b] }))) ∧
  (∀ s : State,
    ∀ p ∈ [(0x08#19, BitVec.ofNat 32 (s.params.dmac.toNat / 2 ^ 32)),
        (0x0C#19, BitVec.ofNat 32 (s.params.dmac.toNat % 2 ^ 32)),
        (0x10#19, BitVec.ofNat 32 (s.params.smac.toNat / 2 ^ 32)),
        (0x14#19, BitVec.ofNat 32 (s.params.smac.toNat % 2 ^ 32)),
        (0x18#19, s.params.sip), (0x1C#19, s.params.dip),
        (0x20#19, BitVec.ofNat 32 s.params.sport.toNat), (0x24#19, BitVec.ofNat 32 s.params.dport.toNat),
        (0x28#19, s.params.plen), (0x2C#19, s.params.clen), (0x30#19, s.params.rbase),
        (0x34#19, s.params.rlen)],
      hostTransact (.read32 p.1) s = { s with replies := s.replies ++ [.word p.2] })

/-- R21, R38: what is written to a parameter register while idle is read back, its low 16 bits for `DMAC_HI`,
`SMAC_HI`, `SPORT` and `DPORT`, all 32 for the others; no write of them is an error. -/
def Obligations.ParametersReadBack : Prop :=
  ∀ (s : State) (d : Word), s.status.busy = false →
    (∀ off ∈ [0x08#19, 0x10#19, 0x20#19, 0x24#19],
      (hostTransact (.read32 off) (hostTransact (.write32 off d) s)).replies =
        s.replies ++ [.word (BitVec.ofNat 32 (d.toNat % 65536))] ∧
      (hostTransact (.write32 off d) s).status = s.status) ∧
    (∀ off ∈ [0x0C#19, 0x14#19, 0x18#19, 0x1C#19, 0x28#19, 0x2C#19, 0x30#19, 0x34#19],
      (hostTransact (.read32 off) (hostTransact (.write32 off d) s)).replies = s.replies ++ [.word d] ∧
      (hostTransact (.write32 off d) s).status = s.status)

/-- R22, R23, R41: a write of one half of a hardware address puts the data there and leaves the other half
and every other register unchanged. -/
def Obligations.MacHalvesAreIndependent : Prop :=
  ∀ (s : State) (d : Word), s.status.busy = false →
    (∃ m : Mac, hostTransact (.write32 0x08#19 d) s = { s with params := { s.params with dmac := m } } ∧
      m.toNat = d.toNat % 65536 * 2 ^ 32 + s.params.dmac.toNat % 2 ^ 32) ∧
    (∃ m : Mac, hostTransact (.write32 0x0C#19 d) s = { s with params := { s.params with dmac := m } } ∧
      m.toNat = s.params.dmac.toNat / 2 ^ 32 * 2 ^ 32 + d.toNat) ∧
    (∃ m : Mac, hostTransact (.write32 0x10#19 d) s = { s with params := { s.params with smac := m } } ∧
      m.toNat = d.toNat % 65536 * 2 ^ 32 + s.params.smac.toNat % 2 ^ 32) ∧
    (∃ m : Mac, hostTransact (.write32 0x14#19 d) s = { s with params := { s.params with smac := m } } ∧
      m.toNat = s.params.smac.toNat / 2 ^ 32 * 2 ^ 32 + d.toNat)

/-- R53: a byte written to `PBUF[i]` or `FBUF[i]` while idle is what a read of that byte returns, and every
other byte of both buffers and every register is unchanged. -/
def Obligations.BufferBytesReadBack : Prop :=
  ∀ (s : State) (i : Nat) (b : Byte), s.cfg.Legal → s.status.busy = false →
    (i < s.cfg.pbufSize → ∃ m,
      hostTransact (.write8 (BitVec.ofNat 19 (0x20000 + i)) b) s = { s with pbuf := m } ∧
      (∀ j, m.get? j = if j = i then some b else s.pbuf.get? j) ∧
      hostTransact (.read8 (BitVec.ofNat 19 (0x20000 + i))) { s with pbuf := m } =
        { s with pbuf := m, replies := s.replies ++ [.byte b] }) ∧
    (i < s.cfg.fbufSize → ∃ m,
      hostTransact (.write8 (BitVec.ofNat 19 (0x40000 + i)) b) s = { s with fbuf := m } ∧
      (∀ j, m.get? j = if j = i then some b else s.fbuf.get? j) ∧
      hostTransact (.read8 (BitVec.ofNat 19 (0x40000 + i))) { s with fbuf := m } =
        { s with fbuf := m, replies := s.replies ++ [.byte b] })

/-- R21: the register locations are no aliases of each other: a write of one parameter register leaves what a
read of every other register returns unchanged. -/
def Obligations.RegistersDoNotAlias : Prop :=
  ∀ (s : State) (d : Word) (off other : Offset), s.status.busy = false →
    off ∈ [0x08#19, 0x0C#19, 0x10#19, 0x14#19, 0x18#19, 0x1C#19, 0x20#19, 0x24#19, 0x28#19, 0x2C#19, 0x30#19,
      0x34#19] →
    RegisterOffset other → other ≠ off →
    (hostTransact (.read32 other) (hostTransact (.write32 off d) s)).replies =
      (hostTransact (.read32 other) s).replies

/-- R58, R63: a host that performs no transaction R58 lists never sets `PERR`: from a safe state (well formed,
with no protocol error so far) a step whose transaction, if it has one, is not among them gives a safe state. -/
def Obligations.ProperHostsStaySafe : Prop :=
  ∀ s t : State, s.Safe → step s = .next t →
    (∀ tx l, s.schedule = .host tx :: l → ¬ tx.Breaks s) → t.Safe
end

