-- ==== Sys2Proof/Laws/Memory.lean ====
section
/-! SUPPORT. The laws of a buffer: what a read after a write gives, that a write keeps the canonical form,
and what a read of a range returns. -/

namespace Sys2Proof.Machine

@[simp] theorem cellsFrom_length (a : Nat) (bs : List Byte) : (cellsFrom a bs).length = bs.length := by
  induction bs generalizing a with
  | nil => rfl
  | cons b bs ih => simp [cellsFrom, ih]

/-- The cells of a range lie in it. -/
theorem mem_cellsFrom {a : Nat} {bs : List Byte} {c : Host.Cell} (h : c ∈ cellsFrom a bs) :
    a ≤ c.1 ∧ c.1 < a + bs.length := by
  induction bs generalizing a with
  | nil => simp [cellsFrom] at h
  | cons b bs ih =>
    simp only [cellsFrom, List.mem_cons] at h
    simp only [List.length_cons]
    rcases h with rfl | h
    · simp only; omega
    · have := ih h
      omega

theorem cellsFrom_wf (a : Nat) (bs : List Byte) : Memory.wf (cellsFrom a bs) := by
  induction bs generalizing a with
  | nil => exact List.Pairwise.nil
  | cons b bs ih =>
    refine List.Pairwise.cons (fun c hc => ?_) (ih (a + 1))
    have := (mem_cellsFrom hc).1
    simp only
    omega

namespace Memory

theorem get?_append (m m' : Memory) (i : Nat) :
    get? (m ++ m') i = (get? m i).or (get? m' i) := by
  induction m with
  | nil => rfl
  | cons c m ih =>
    obtain ⟨k, b⟩ := c
    simp only [List.cons_append, get?]
    split
    · rfl
    · exact ih

/-- Keeping the cells of a range of indices keeps what is stored there and forgets the rest. -/
theorem get?_filter (m : Memory) (p : Nat → Bool) (i : Nat) :
    get? (m.filter (fun c => p c.1)) i = if p i then get? m i else none := by
  induction m with
  | nil => simp [get?]
  | cons c m ih =>
    obtain ⟨k, b⟩ := c
    by_cases hk : k = i
    · subst hk
      by_cases hp : p k <;> simp_all [get?]
    · by_cases hp : p k <;> simp_all [get?]

theorem get?_cellsFrom (a : Nat) (bs : List Byte) (i : Nat) :
    get? (cellsFrom a bs) i = if a ≤ i then bs[i - a]? else none := by
  induction bs generalizing a with
  | nil => simp [cellsFrom, get?]
  | cons b bs ih =>
    simp only [cellsFrom, get?, ih]
    rcases Nat.lt_trichotomy a i with h | h | h
    · have e : i - a = (i - (a + 1)) + 1 := by omega
      rw [if_neg (by omega), if_pos (by omega), if_pos (by omega), e, List.getElem?_cons_succ]
    · subst h
      simp
    · rw [if_neg (by omega), if_neg (by omega), if_neg (by omega)]

/-- Everything a write can do: the range holds the written bytes and every other index what it held. -/
theorem get?_write (m : Memory) (a : Nat) (bs : List Byte) (i : Nat) :
    (m.write a bs).get? i = if a ≤ i ∧ i < a + bs.length then bs[i - a]? else m.get? i := by
  have h1 := get?_filter m (fun k => decide (k < a)) i
  have h2 := get?_filter m (fun k => decide (a + bs.length ≤ k)) i
  simp only [decide_eq_true_eq] at h1 h2
  rw [write, get?_append, get?_append, h1, h2, get?_cellsFrom]
  by_cases hlo : i < a
  · rw [if_pos hlo, if_neg (by omega), if_neg (by omega), if_neg (by omega)]
    simp
  · by_cases hhi : i < a + bs.length
    · rw [if_neg hlo, if_pos (by omega), if_neg (by omega), if_pos (by omega)]
      simp
    · have hnone : bs[i - a]? = none := List.getElem?_eq_none (by omega)
      rw [if_neg hlo, if_pos (by omega), if_pos (by omega), if_neg (by omega), hnone]
      simp

/-- A write keeps the canonical form. -/
theorem write_wf {m : Memory} (h : m.wf) (a : Nat) (bs : List Byte) : (m.write a bs).wf := by
  unfold write
  refine List.pairwise_append.2 ⟨List.pairwise_append.2 ⟨h.filter _, cellsFrom_wf a bs, ?_⟩, h.filter _, ?_⟩
  · intro x hx y hy
    have h1 : x.1 < a := by simpa using (List.mem_filter.1 hx).2
    have h2 := (mem_cellsFrom hy).1
    omega
  · intro x hx y hy
    have h2 : a + bs.length ≤ y.1 := by simpa using (List.mem_filter.1 hy).2
    rcases List.mem_append.1 hx with hx | hx
    · have h1 : x.1 < a := by simpa using (List.mem_filter.1 hx).2
      omega
    · have h1 := (mem_cellsFrom hx).2
      omega

/-- A write inside a buffer of size `size` leaves every index inside it. -/
theorem write_bounded {m : Memory} {size : Nat} (h : ∀ c ∈ m, c.1 < size) {a : Nat} {bs : List Byte}
    (hb : a + bs.length ≤ size) : ∀ c ∈ m.write a bs, c.1 < size := by
  intro c hc
  simp only [write, List.mem_append, List.mem_filter] at hc
  rcases hc with (hc | hc) | hc
  · exact h c hc.1
  · have := (mem_cellsFrom hc).2
    omega
  · exact h c hc.1

/-- Everything a read of one byte can do. -/
theorem readByte_cases (m : Memory) (fresh i : Nat) :
    (∃ b, m.get? i = some b ∧ m.readByte fresh i = (b, fresh)) ∨
      (m.get? i = none ∧ m.readByte fresh i = (Config.freeByte fresh, fresh + 1)) := by
  unfold readByte
  cases h : m.get? i with
  | some b => exact .inl ⟨b, rfl, rfl⟩
  | none => exact .inr ⟨rfl, rfl⟩

theorem readByte_of_get? {m : Memory} {i : Nat} {b : Byte} (h : m.get? i = some b) (fresh : Nat) :
    m.readByte fresh i = (b, fresh) := by
  simp [readByte, h]

@[simp] theorem read_zero (m : Memory) (fresh a : Nat) : m.read fresh a 0 = ([], fresh) := rfl

/-- A read of `n` bytes returns `n` bytes. -/
@[simp] theorem read_length (m : Memory) (fresh a n : Nat) : (m.read fresh a n).1.length = n := by
  induction n generalizing fresh a with
  | zero => rfl
  | succ n ih => simp [read, ih]

/-- A read depends on the buffer only through what is stored at the indices it reads. -/
theorem read_congr {m m' : Memory} {a n : Nat} (h : ∀ k < n, m.get? (a + k) = m'.get? (a + k))
    (fresh : Nat) : m.read fresh a n = m'.read fresh a n := by
  induction n generalizing fresh a with
  | zero => rfl
  | succ n ih =>
    have h0 : m.get? a = m'.get? a := by simpa using h 0 (by omega)
    have hb : m.readByte fresh a = m'.readByte fresh a := by simp [readByte, h0]
    have hr := ih (a := a + 1) (fun k hk => by
      have := h (k + 1) (by omega)
      rwa [show a + (k + 1) = a + 1 + k by omega] at this)
    simp [read, hb, hr]

end Memory

end Sys2Proof.Machine
end

