-- ==== Sys2Proof/Laws/PerInstr.lean ====
section
/-! SUPPORT. Statements about every command, one lemma per constructor. -/

namespace Sys2Proof.Laws.EncodeInRow

/-- The word of a command belongs to its row of spec/opcode_table.json (R71). -/
def Statement (i : Instr) : Prop := i.row.accepts (encode i) = true

theorem nop : Statement .nop := rfl

theorem aclr : Statement .aclr := rfl

theorem aadd (imm16 : Half) : Statement (.aadd imm16) := by
  simp only [Statement, Instr.row, OpcodeRow.accepts, encode, beq_iff_eq]
  apply BitVec.eq_of_getLsbD_eq
  intro k hk
  simp only [BitVec.getLsbD_and, BitVec.getLsbD_append]
  interval_cases k <;> simp

theorem asum (sel : BufSel) : Statement (.asum sel) := by cases sel <;> rfl

theorem afin : Statement .afin := rfl

theorem cksum (sel : BufSel) : Statement (.cksum sel) := by cases sel <;> rfl

theorem udpcs : Statement .udpcs := rfl

theorem build : Statement .build := rfl

end Sys2Proof.Laws.EncodeInRow
end

