-- ==== Sys2Proof/Laws/State.lean ====
section
/-! SUPPORT. One lemma for each field under each update of State, and for each field of STATUS under each of
its updates, all true by rfl. -/

namespace Sys2Proof.Machine

namespace State

@[simp] theorem setLatch_cfg (s : State) (w : Word) : (s.setLatch w).cfg = s.cfg := rfl
@[simp] theorem setLatch_cmdlatch (s : State) (w : Word) : (s.setLatch w).cmdlatch = w := rfl
@[simp] theorem setLatch_status (s : State) (w : Word) : (s.setLatch w).status = s.status := rfl
@[simp] theorem setLatch_params (s : State) (w : Word) : (s.setLatch w).params = s.params := rfl
@[simp] theorem setLatch_acc (s : State) (w : Word) : (s.setLatch w).acc = s.acc := rfl
@[simp] theorem setLatch_csum (s : State) (w : Word) : (s.setLatch w).csum = s.csum := rfl
@[simp] theorem setLatch_flen (s : State) (w : Word) : (s.setLatch w).flen = s.flen := rfl
@[simp] theorem setLatch_pbuf (s : State) (w : Word) : (s.setLatch w).pbuf = s.pbuf := rfl
@[simp] theorem setLatch_fbuf (s : State) (w : Word) : (s.setLatch w).fbuf = s.fbuf := rfl
@[simp] theorem setLatch_fresh (s : State) (w : Word) : (s.setLatch w).fresh = s.fresh := rfl
@[simp] theorem setLatch_schedule (s : State) (w : Word) : (s.setLatch w).schedule = s.schedule := rfl
@[simp] theorem setLatch_replies (s : State) (w : Word) : (s.setLatch w).replies = s.replies := rfl

@[simp] theorem setStatus_cfg (s : State) (x : Status) : (s.setStatus x).cfg = s.cfg := rfl
@[simp] theorem setStatus_cmdlatch (s : State) (x : Status) : (s.setStatus x).cmdlatch = s.cmdlatch := rfl
@[simp] theorem setStatus_status (s : State) (x : Status) : (s.setStatus x).status = x := rfl
@[simp] theorem setStatus_params (s : State) (x : Status) : (s.setStatus x).params = s.params := rfl
@[simp] theorem setStatus_acc (s : State) (x : Status) : (s.setStatus x).acc = s.acc := rfl
@[simp] theorem setStatus_csum (s : State) (x : Status) : (s.setStatus x).csum = s.csum := rfl
@[simp] theorem setStatus_flen (s : State) (x : Status) : (s.setStatus x).flen = s.flen := rfl
@[simp] theorem setStatus_pbuf (s : State) (x : Status) : (s.setStatus x).pbuf = s.pbuf := rfl
@[simp] theorem setStatus_fbuf (s : State) (x : Status) : (s.setStatus x).fbuf = s.fbuf := rfl
@[simp] theorem setStatus_fresh (s : State) (x : Status) : (s.setStatus x).fresh = s.fresh := rfl
@[simp] theorem setStatus_schedule (s : State) (x : Status) : (s.setStatus x).schedule = s.schedule := rfl
@[simp] theorem setStatus_replies (s : State) (x : Status) : (s.setStatus x).replies = s.replies := rfl

@[simp] theorem setParams_cfg (s : State) (p : ParamRegs) : (s.setParams p).cfg = s.cfg := rfl
@[simp] theorem setParams_cmdlatch (s : State) (p : ParamRegs) : (s.setParams p).cmdlatch = s.cmdlatch := rfl
@[simp] theorem setParams_status (s : State) (p : ParamRegs) : (s.setParams p).status = s.status := rfl
@[simp] theorem setParams_params (s : State) (p : ParamRegs) : (s.setParams p).params = p := rfl
@[simp] theorem setParams_acc (s : State) (p : ParamRegs) : (s.setParams p).acc = s.acc := rfl
@[simp] theorem setParams_csum (s : State) (p : ParamRegs) : (s.setParams p).csum = s.csum := rfl
@[simp] theorem setParams_flen (s : State) (p : ParamRegs) : (s.setParams p).flen = s.flen := rfl
@[simp] theorem setParams_pbuf (s : State) (p : ParamRegs) : (s.setParams p).pbuf = s.pbuf := rfl
@[simp] theorem setParams_fbuf (s : State) (p : ParamRegs) : (s.setParams p).fbuf = s.fbuf := rfl
@[simp] theorem setParams_fresh (s : State) (p : ParamRegs) : (s.setParams p).fresh = s.fresh := rfl
@[simp] theorem setParams_schedule (s : State) (p : ParamRegs) : (s.setParams p).schedule = s.schedule := rfl
@[simp] theorem setParams_replies (s : State) (p : ParamRegs) : (s.setParams p).replies = s.replies := rfl

@[simp] theorem setAcc_cfg (s : State) (a : Word) : (s.setAcc a).cfg = s.cfg := rfl
@[simp] theorem setAcc_cmdlatch (s : State) (a : Word) : (s.setAcc a).cmdlatch = s.cmdlatch := rfl
@[simp] theorem setAcc_status (s : State) (a : Word) : (s.setAcc a).status = s.status := rfl
@[simp] theorem setAcc_params (s : State) (a : Word) : (s.setAcc a).params = s.params := rfl
@[simp] theorem setAcc_acc (s : State) (a : Word) : (s.setAcc a).acc = a := rfl
@[simp] theorem setAcc_csum (s : State) (a : Word) : (s.setAcc a).csum = s.csum := rfl
@[simp] theorem setAcc_flen (s : State) (a : Word) : (s.setAcc a).flen = s.flen := rfl
@[simp] theorem setAcc_pbuf (s : State) (a : Word) : (s.setAcc a).pbuf = s.pbuf := rfl
@[simp] theorem setAcc_fbuf (s : State) (a : Word) : (s.setAcc a).fbuf = s.fbuf := rfl
@[simp] theorem setAcc_fresh (s : State) (a : Word) : (s.setAcc a).fresh = s.fresh := rfl
@[simp] theorem setAcc_schedule (s : State) (a : Word) : (s.setAcc a).schedule = s.schedule := rfl
@[simp] theorem setAcc_replies (s : State) (a : Word) : (s.setAcc a).replies = s.replies := rfl

@[simp] theorem setCsum_cfg (s : State) (c : Half) : (s.setCsum c).cfg = s.cfg := rfl
@[simp] theorem setCsum_cmdlatch (s : State) (c : Half) : (s.setCsum c).cmdlatch = s.cmdlatch := rfl
@[simp] theorem setCsum_status (s : State) (c : Half) : (s.setCsum c).status = s.status := rfl
@[simp] theorem setCsum_params (s : State) (c : Half) : (s.setCsum c).params = s.params := rfl
@[simp] theorem setCsum_acc (s : State) (c : Half) : (s.setCsum c).acc = s.acc := rfl
@[simp] theorem setCsum_csum (s : State) (c : Half) : (s.setCsum c).csum = c := rfl
@[simp] theorem setCsum_flen (s : State) (c : Half) : (s.setCsum c).flen = s.flen := rfl
@[simp] theorem setCsum_pbuf (s : State) (c : Half) : (s.setCsum c).pbuf = s.pbuf := rfl
@[simp] theorem setCsum_fbuf (s : State) (c : Half) : (s.setCsum c).fbuf = s.fbuf := rfl
@[simp] theorem setCsum_fresh (s : State) (c : Half) : (s.setCsum c).fresh = s.fresh := rfl
@[simp] theorem setCsum_schedule (s : State) (c : Half) : (s.setCsum c).schedule = s.schedule := rfl
@[simp] theorem setCsum_replies (s : State) (c : Half) : (s.setCsum c).replies = s.replies := rfl

@[simp] theorem setFlen_cfg (s : State) (n : Word) : (s.setFlen n).cfg = s.cfg := rfl
@[simp] theorem setFlen_cmdlatch (s : State) (n : Word) : (s.setFlen n).cmdlatch = s.cmdlatch := rfl
@[simp] theorem setFlen_status (s : State) (n : Word) : (s.setFlen n).status = s.status := rfl
@[simp] theorem setFlen_params (s : State) (n : Word) : (s.setFlen n).params = s.params := rfl
@[simp] theorem setFlen_acc (s : State) (n : Word) : (s.setFlen n).acc = s.acc := rfl
@[simp] theorem setFlen_csum (s : State) (n : Word) : (s.setFlen n).csum = s.csum := rfl
@[simp] theorem setFlen_flen (s : State) (n : Word) : (s.setFlen n).flen = n := rfl
@[simp] theorem setFlen_pbuf (s : State) (n : Word) : (s.setFlen n).pbuf = s.pbuf := rfl
@[simp] theorem setFlen_fbuf (s : State) (n : Word) : (s.setFlen n).fbuf = s.fbuf := rfl
@[simp] theorem setFlen_fresh (s : State) (n : Word) : (s.setFlen n).fresh = s.fresh := rfl
@[simp] theorem setFlen_schedule (s : State) (n : Word) : (s.setFlen n).schedule = s.schedule := rfl
@[simp] theorem setFlen_replies (s : State) (n : Word) : (s.setFlen n).replies = s.replies := rfl

@[simp] theorem setPbuf_cfg (s : State) (m : Memory) : (s.setPbuf m).cfg = s.cfg := rfl
@[simp] theorem setPbuf_cmdlatch (s : State) (m : Memory) : (s.setPbuf m).cmdlatch = s.cmdlatch := rfl
@[simp] theorem setPbuf_status (s : State) (m : Memory) : (s.setPbuf m).status = s.status := rfl
@[simp] theorem setPbuf_params (s : State) (m : Memory) : (s.setPbuf m).params = s.params := rfl
@[simp] theorem setPbuf_acc (s : State) (m : Memory) : (s.setPbuf m).acc = s.acc := rfl
@[simp] theorem setPbuf_csum (s : State) (m : Memory) : (s.setPbuf m).csum = s.csum := rfl
@[simp] theorem setPbuf_flen (s : State) (m : Memory) : (s.setPbuf m).flen = s.flen := rfl
@[simp] theorem setPbuf_pbuf (s : State) (m : Memory) : (s.setPbuf m).pbuf = m := rfl
@[simp] theorem setPbuf_fbuf (s : State) (m : Memory) : (s.setPbuf m).fbuf = s.fbuf := rfl
@[simp] theorem setPbuf_fresh (s : State) (m : Memory) : (s.setPbuf m).fresh = s.fresh := rfl
@[simp] theorem setPbuf_schedule (s : State) (m : Memory) : (s.setPbuf m).schedule = s.schedule := rfl
@[simp] theorem setPbuf_replies (s : State) (m : Memory) : (s.setPbuf m).replies = s.replies := rfl

@[simp] theorem setFbuf_cfg (s : State) (m : Memory) : (s.setFbuf m).cfg = s.cfg := rfl
@[simp] theorem setFbuf_cmdlatch (s : State) (m : Memory) : (s.setFbuf m).cmdlatch = s.cmdlatch := rfl
@[simp] theorem setFbuf_status (s : State) (m : Memory) : (s.setFbuf m).status = s.status := rfl
@[simp] theorem setFbuf_params (s : State) (m : Memory) : (s.setFbuf m).params = s.params := rfl
@[simp] theorem setFbuf_acc (s : State) (m : Memory) : (s.setFbuf m).acc = s.acc := rfl
@[simp] theorem setFbuf_csum (s : State) (m : Memory) : (s.setFbuf m).csum = s.csum := rfl
@[simp] theorem setFbuf_flen (s : State) (m : Memory) : (s.setFbuf m).flen = s.flen := rfl
@[simp] theorem setFbuf_pbuf (s : State) (m : Memory) : (s.setFbuf m).pbuf = s.pbuf := rfl
@[simp] theorem setFbuf_fbuf (s : State) (m : Memory) : (s.setFbuf m).fbuf = m := rfl
@[simp] theorem setFbuf_fresh (s : State) (m : Memory) : (s.setFbuf m).fresh = s.fresh := rfl
@[simp] theorem setFbuf_schedule (s : State) (m : Memory) : (s.setFbuf m).schedule = s.schedule := rfl
@[simp] theorem setFbuf_replies (s : State) (m : Memory) : (s.setFbuf m).replies = s.replies := rfl

@[simp] theorem setFresh_cfg (s : State) (n : Nat) : (s.setFresh n).cfg = s.cfg := rfl
@[simp] theorem setFresh_cmdlatch (s : State) (n : Nat) : (s.setFresh n).cmdlatch = s.cmdlatch := rfl
@[simp] theorem setFresh_status (s : State) (n : Nat) : (s.setFresh n).status = s.status := rfl
@[simp] theorem setFresh_params (s : State) (n : Nat) : (s.setFresh n).params = s.params := rfl
@[simp] theorem setFresh_acc (s : State) (n : Nat) : (s.setFresh n).acc = s.acc := rfl
@[simp] theorem setFresh_csum (s : State) (n : Nat) : (s.setFresh n).csum = s.csum := rfl
@[simp] theorem setFresh_flen (s : State) (n : Nat) : (s.setFresh n).flen = s.flen := rfl
@[simp] theorem setFresh_pbuf (s : State) (n : Nat) : (s.setFresh n).pbuf = s.pbuf := rfl
@[simp] theorem setFresh_fbuf (s : State) (n : Nat) : (s.setFresh n).fbuf = s.fbuf := rfl
@[simp] theorem setFresh_fresh (s : State) (n : Nat) : (s.setFresh n).fresh = n := rfl
@[simp] theorem setFresh_schedule (s : State) (n : Nat) : (s.setFresh n).schedule = s.schedule := rfl
@[simp] theorem setFresh_replies (s : State) (n : Nat) : (s.setFresh n).replies = s.replies := rfl

@[simp] theorem setSchedule_cfg (s : State) (l : List Event) : (s.setSchedule l).cfg = s.cfg := rfl
@[simp] theorem setSchedule_cmdlatch (s : State) (l : List Event) : (s.setSchedule l).cmdlatch = s.cmdlatch := rfl
@[simp] theorem setSchedule_status (s : State) (l : List Event) : (s.setSchedule l).status = s.status := rfl
@[simp] theorem setSchedule_params (s : State) (l : List Event) : (s.setSchedule l).params = s.params := rfl
@[simp] theorem setSchedule_acc (s : State) (l : List Event) : (s.setSchedule l).acc = s.acc := rfl
@[simp] theorem setSchedule_csum (s : State) (l : List Event) : (s.setSchedule l).csum = s.csum := rfl
@[simp] theorem setSchedule_flen (s : State) (l : List Event) : (s.setSchedule l).flen = s.flen := rfl
@[simp] theorem setSchedule_pbuf (s : State) (l : List Event) : (s.setSchedule l).pbuf = s.pbuf := rfl
@[simp] theorem setSchedule_fbuf (s : State) (l : List Event) : (s.setSchedule l).fbuf = s.fbuf := rfl
@[simp] theorem setSchedule_fresh (s : State) (l : List Event) : (s.setSchedule l).fresh = s.fresh := rfl
@[simp] theorem setSchedule_schedule (s : State) (l : List Event) : (s.setSchedule l).schedule = l := rfl
@[simp] theorem setSchedule_replies (s : State) (l : List Event) : (s.setSchedule l).replies = s.replies := rfl

@[simp] theorem pushReply_cfg (s : State) (r : Reply) : (s.pushReply r).cfg = s.cfg := rfl
@[simp] theorem pushReply_cmdlatch (s : State) (r : Reply) : (s.pushReply r).cmdlatch = s.cmdlatch := rfl
@[simp] theorem pushReply_status (s : State) (r : Reply) : (s.pushReply r).status = s.status := rfl
@[simp] theorem pushReply_params (s : State) (r : Reply) : (s.pushReply r).params = s.params := rfl
@[simp] theorem pushReply_acc (s : State) (r : Reply) : (s.pushReply r).acc = s.acc := rfl
@[simp] theorem pushReply_csum (s : State) (r : Reply) : (s.pushReply r).csum = s.csum := rfl
@[simp] theorem pushReply_flen (s : State) (r : Reply) : (s.pushReply r).flen = s.flen := rfl
@[simp] theorem pushReply_pbuf (s : State) (r : Reply) : (s.pushReply r).pbuf = s.pbuf := rfl
@[simp] theorem pushReply_fbuf (s : State) (r : Reply) : (s.pushReply r).fbuf = s.fbuf := rfl
@[simp] theorem pushReply_fresh (s : State) (r : Reply) : (s.pushReply r).fresh = s.fresh := rfl
@[simp] theorem pushReply_schedule (s : State) (r : Reply) : (s.pushReply r).schedule = s.schedule := rfl
@[simp] theorem pushReply_replies (s : State) (r : Reply) : (s.pushReply r).replies = s.replies ++ [r] := rfl

end State

namespace Status

@[simp] theorem accepted_busy (x : Status) : x.accepted.busy = true := rfl
@[simp] theorem accepted_done (x : Status) : x.accepted.done = false := rfl
@[simp] theorem accepted_err (x : Status) : x.accepted.err = false := rfl
@[simp] theorem accepted_perr (x : Status) : x.accepted.perr = x.perr := rfl
@[simp] theorem accepted_ecode (x : Status) : x.accepted.ecode = .none := rfl

@[simp] theorem completed_busy (x : Status) : x.completed.busy = false := rfl
@[simp] theorem completed_done (x : Status) : x.completed.done = true := rfl
@[simp] theorem completed_err (x : Status) : x.completed.err = false := rfl
@[simp] theorem completed_perr (x : Status) : x.completed.perr = x.perr := rfl
@[simp] theorem completed_ecode (x : Status) : x.completed.ecode = .none := rfl

@[simp] theorem failed_busy (x : Status) (code : ECode) : (x.failed code).busy = false := rfl
@[simp] theorem failed_done (x : Status) (code : ECode) : (x.failed code).done = false := rfl
@[simp] theorem failed_err (x : Status) (code : ECode) : (x.failed code).err = true := rfl
@[simp] theorem failed_perr (x : Status) (code : ECode) : (x.failed code).perr = x.perr := rfl
@[simp] theorem failed_ecode (x : Status) (code : ECode) : (x.failed code).ecode = code := rfl

@[simp] theorem violated_busy (x : Status) : x.violated.busy = x.busy := rfl
@[simp] theorem violated_done (x : Status) : x.violated.done = x.done := rfl
@[simp] theorem violated_err (x : Status) : x.violated.err = x.err := rfl
@[simp] theorem violated_perr (x : Status) : x.violated.perr = true := rfl
@[simp] theorem violated_ecode (x : Status) : x.violated.ecode = x.ecode := rfl

end Status

end Sys2Proof.Machine
end

