-- ==== Sys2Proof/Machine/Script.lean ====
section
/-! DEFINITION. The script notation and its pseudo-operations, as schedules of events
(spec/30_encoding.md R89, R90). -/

namespace Sys2Proof.Machine

/-- The index of a register (R21). -/
def Reg.index : Reg → Nat
  | .cmd => 0
  | .status => 1
  | .dmacHi => 2
  | .dmacLo => 3
  | .smacHi => 4
  | .smacLo => 5
  | .sip => 6
  | .dip => 7
  | .sport => 8
  | .dport => 9
  | .plen => 10
  | .clen => 11
  | .rbase => 12
  | .rlen => 13
  | .acc => 14
  | .csum => 15
  | .flen => 16

/-- Register index `i` is at byte offset `4*i` (R21). -/
def Reg.offset (r : Reg) : Offset := BitVec.ofNat 19 (4 * r.index)

/-- The offset of a buffer byte: `0x20000 + i` or `0x40000 + i` (R50, R89). -/
def bufOffset (sel : BufSel) (i : Nat) : Offset :=
  match sel with
  | .pbuf => BitVec.ofNat 19 (0x20000 + i)
  | .fbuf => BitVec.ofNat 19 (0x40000 + i)

/-- `wr REG, v` (R89). -/
def wr (r : Reg) (v : Word) : List Event := [.host (.write32 r.offset v)]

/-- `rd REG` (R89). -/
def rd (r : Reg) : List Event := [.host (.read32 r.offset)]

/-- `wb PBUF[i], b` and `wb FBUF[i], b` (R89). -/
def wb (sel : BufSel) (i : Nat) (b : Byte) : List Event := [.host (.write8 (bufOffset sel i) b)]

/-- `rb PBUF[i]` and `rb FBUF[i]` (R89). -/
def rb (sel : BufSel) (i : Nat) : List Event := [.host (.read8 (bufOffset sel i))]

/-- `cmd RAW w` (R89). -/
def cmdRaw (w : Word) : List Event := wr .cmd w

/-- `cmd NOP`, `cmd AADD v`, `cmd ASUM P` and so on: a `CMD` write of the command's word (R89). -/
def cmd (i : Instr) : List Event := cmdRaw (encode i)

/-- `wait` (R90) whose host reads `STATUS` `polls` times before the engine has its turn and once after it;
that last read is the one a following `= v` states (DESIGN CHOICE, log 20). -/
def wait (polls : Nat) : List Event := (List.replicate polls (rd .status)).flatten ++ [.engine] ++ rd .status

/-- `setdmac a:b:c:d:e:f` (R90). -/
def setdmac (a b c d e f : Byte) : List Event :=
  wr .dmacHi (0#16 ++ a ++ b) ++ wr .dmacLo (c ++ d ++ e ++ f)

/-- `setsmac a:b:c:d:e:f` (R90). -/
def setsmac (a b c d e f : Byte) : List Event :=
  wr .smacHi (0#16 ++ a ++ b) ++ wr .smacLo (c ++ d ++ e ++ f)

/-- `setip REG, a.b.c.d` (R90). -/
def setip (r : Reg) (a b c d : Byte) : List Event := wr r (a ++ b ++ c ++ d)

/-- `load PBUF, i, b0 b1 ... bk`, in ascending order, and the same for `FBUF` (R90). -/
def load (sel : BufSel) : Nat → List Byte → List Event
  | _, [] => []
  | i, b :: bs => wb sel i b ++ load sel (i + 1) bs

/-- `region base, len` (R90). -/
def region (base len : Word) : List Event := wr .rbase base ++ wr .rlen len

/-- `aaddb b`: a lone trailing byte, added the way `SumBytes` does (R90, R105). -/
def aaddb (b : Byte) : List Event := cmd (.aadd (beWord b 0x00#8))

/-- `checksum X, base, len` (R90). -/
def checksum (sel : BufSel) (base len : Word) : List Event :=
  region base len ++ cmd (.cksum sel) ++ wait 0 ++ rd .csum

end Sys2Proof.Machine
end

