-- ==== Sys2Proof/Laws/Step.lean ====
section
/-! SUPPORT. What each shared operation and each step can do, said once. -/

namespace Sys2Proof.Machine

variable {s t : State} {i : Instr} {tx : Tx}

@[simp] theorem leaveChecksum_acc (a : Word) (s : State) :
    (leaveChecksum a s).acc = (fold a).setWidth 32 := rfl
@[simp] theorem leaveChecksum_csum (a : Word) (s : State) : (leaveChecksum a s).csum = cpl16 (fold a) := rfl
@[simp] theorem leaveChecksum_status (a : Word) (s : State) : (leaveChecksum a s).status = s.status := rfl
@[simp] theorem leaveChecksum_fbuf (a : Word) (s : State) : (leaveChecksum a s).fbuf = s.fbuf := rfl

theorem completeOk_eq (s : State) : completeOk s = .next (s.setStatus s.status.completed) := rfl

theorem raise_eq (code : ECode) (s : State) : raise code s = .next (s.setStatus (s.status.failed code)) := rfl

theorem accept_eq (w : Word) (s : State) :
    accept w s = (s.setLatch w).setStatus s.status.accepted := rfl

/-- What a successful `BUILD` leaves. -/
def State.built (s : State) : State :=
  ((((leaveChecksum s.buildSum s).setFbuf (s.fbuf.write 0 s.frame)).setFlen
    (BitVec.ofNat 32 (hdrLen + s.payloadLen))).setFresh s.buildPayload.2).setStatus s.status.completed

/-- Everything a command can do: report an error and nothing else; leave `ACC` and `CSUM`; or, for `BUILD`
alone, leave a frame. -/
theorem exec_cases (h : exec i s = .next t) :
    (∃ code, code ≠ .none ∧ t = s.setStatus (s.status.failed code)) ∨
    (∃ a c n, t = (((s.setAcc a).setCsum c).setFresh n).setStatus s.status.completed) ∨
    (i = .build ∧ s.LenOkBuild ∧ s.CovOk ∧ t = s.built) := by
  cases i with
  | nop => cases h; exact .inr (.inl ⟨s.acc, s.csum, s.fresh, rfl⟩)
  | aclr => cases h; exact .inr (.inl ⟨0#32, s.csum, s.fresh, rfl⟩)
  | aadd imm16 => cases h; exact .inr (.inl ⟨accAdd s.acc imm16, s.csum, s.fresh, rfl⟩)
  | asum sel =>
    simp only [exec, execAsum] at h
    split at h <;> cases h
    · exact .inr (.inl ⟨sumBytes s.acc (s.region sel).1, s.csum, (s.region sel).2, rfl⟩)
    · exact .inl ⟨.region, by decide, rfl⟩
  | afin => cases h; exact .inr (.inl ⟨(fold s.acc).setWidth 32, cpl16 (fold s.acc), s.fresh, rfl⟩)
  | cksum sel =>
    simp only [exec, execCksum] at h
    split at h <;> cases h
    · exact .inr (.inl ⟨_, _, _, rfl⟩)
    · exact .inl ⟨.region, by decide, rfl⟩
  | udpcs =>
    simp only [exec, execUdpcs] at h
    split at h
    · split at h <;> cases h
      · exact .inr (.inl ⟨_, _, _, rfl⟩)
      · exact .inl ⟨.cov, by decide, rfl⟩
    · cases h
      exact .inl ⟨.len, by decide, rfl⟩
  | build =>
    simp only [exec, execBuild] at h
    split at h
    · split at h <;> cases h
      · exact .inr (.inr ⟨rfl, ‹_›, ‹_›, rfl⟩)
      · exact .inl ⟨.cov, by decide, rfl⟩
    · cases h
      exact .inl ⟨.len, by decide, rfl⟩

/-- Everything the engine's turn can do. -/
theorem engineTurn_cases (h : engineTurn s = .next t) :
    (s.status.busy = false ∧ t = s) ∨
    (s.status.busy = true ∧
      ((∃ i, decode s.cmdlatch = .ok i ∧ exec i s = .next t) ∨
       (∃ e, decode s.cmdlatch = .error e ∧ t = s.setStatus (s.status.failed .illCmd)))) := by
  unfold engineTurn at h
  split at h
  · rename_i hb
    refine .inr ⟨hb, ?_⟩
    unfold complete at h
    cases hd : decode s.cmdlatch with
    | ok i => exact .inl ⟨i, rfl, by simpa [hd] using h⟩
    | error e =>
      rw [hd] at h
      cases h
      exact .inr ⟨e, rfl, rfl⟩
  · rename_i hb
    cases h
    exact .inl ⟨by simpa using hb, rfl⟩

/-- A byte offset lands inside its buffer. -/
theorem byteAt_bound {c : Config} {off : Offset} {sel : BufSel} {i : Nat} (h : byteAt c off = some (sel, i)) :
    i < (match sel with | .pbuf => c.pbufSize | .fbuf => c.fbufSize) := by
  unfold byteAt at h
  split at h
  · cases h; simp only; omega
  · split at h
    · cases h; simp only; omega
    · cases h

/-- Everything a host transaction can do: flag a protocol error; answer a read, with or without one; and,
while idle only, start a command, write a parameter register, or write a buffer byte. -/
theorem hostTransact_cases (tx : Tx) (s : State) :
    hostTransact tx s = protocolError s ∨
    (∃ r n, s.fresh ≤ n ∧ (hostTransact tx s = (s.pushReply r).setFresh n ∨
      hostTransact tx s = ((protocolError s).pushReply r).setFresh n)) ∨
    (s.status.busy = false ∧
      ((∃ w, hostTransact tx s = accept w s) ∨ (∃ p, hostTransact tx s = s.setParams p) ∨
       (∃ i b, i < s.cfg.pbufSize ∧ hostTransact tx s = s.setPbuf (s.pbuf.write i [b])) ∨
       (∃ i b, i < s.cfg.fbufSize ∧ hostTransact tx s = s.setFbuf (s.fbuf.write i [b])))) := by
  cases tx with
  | write32 off d =>
    simp only [hostTransact, hostWrite32]
    split
    · exact .inl rfl
    · split
      · exact .inl rfl
      · rename_i r _ hb
        have hb : s.status.busy = false := by simpa using hb
        cases r
        case cmd => exact .inr (.inr ⟨hb, .inl ⟨d, rfl⟩⟩)
        case status => exact .inl rfl
        case acc => exact .inl rfl
        case csum => exact .inl rfl
        case flen => exact .inl rfl
        all_goals exact .inr (.inr ⟨hb, .inr (.inl ⟨_, rfl⟩)⟩)
  | read32 off =>
    simp only [hostTransact, hostRead32]
    split
    · exact .inr (.inl ⟨_, s.fresh + 1, by omega, .inr rfl⟩)
    · split
      · exact .inr (.inl ⟨_, s.fresh + 1, by omega, .inl rfl⟩)
      · exact .inr (.inl ⟨_, s.fresh, by omega, .inl rfl⟩)
  | write16 off d => exact .inl rfl
  | read16 off => exact .inr (.inl ⟨_, s.fresh + 1, by omega, .inr rfl⟩)
  | write8 off b =>
    simp only [hostTransact, hostWrite8]
    split
    · exact .inl rfl
    · rename_i sel k hk
      have hlt := byteAt_bound hk
      split
      · exact .inl rfl
      · rename_i hb
        have hb : s.status.busy = false := by simpa using hb
        cases sel with
        | pbuf => exact .inr (.inr ⟨hb, .inr (.inr (.inl ⟨k, b, hlt, rfl⟩))⟩)
        | fbuf => exact .inr (.inr ⟨hb, .inr (.inr (.inr ⟨k, b, hlt, rfl⟩))⟩)
  | read8 off =>
    have hreply : ∀ (m : Memory) (k : Nat), s.fresh ≤ (m.readByte s.fresh k).2 := by
      intro m k
      rcases m.readByte_cases s.fresh k with ⟨b, -, h⟩ | ⟨-, h⟩ <;> simp [h]
    simp only [hostTransact, hostRead8]
    split
    · exact .inr (.inl ⟨_, s.fresh + 1, by omega, .inr rfl⟩)
    · rename_i sel k _
      cases sel with
      | pbuf => exact .inr (.inl ⟨_, _, hreply _ _, .inl rfl⟩)
      | fbuf =>
        simp only
        split
        · exact .inr (.inl ⟨_, s.fresh + 1, by omega, .inl rfl⟩)
        · exact .inr (.inl ⟨_, _, hreply _ _, .inl rfl⟩)

/-- Everything a step can do, by what the schedule says comes next. -/
theorem step_cases (h : step s = .next t) :
    (s.schedule = [] ∧ engineTurn s = .next t) ∨
    (∃ l, s.schedule = .engine :: l ∧ engineTurn (s.setSchedule l) = .next t) ∨
    (∃ tx l, s.schedule = .host tx :: l ∧ t = hostTransact tx (s.setSchedule l)) ∨
    (∃ l, s.schedule = .reset :: l ∧ t = resetBlock (s.setSchedule l)) := by
  unfold step at h
  split at h
  · exact .inl ⟨‹_›, h⟩
  · cases h
    exact .inr (.inr (.inl ⟨_, _, ‹_›, rfl⟩))
  · exact .inr (.inl ⟨_, ‹_›, h⟩)
  · cases h
    exact .inr (.inr (.inr ⟨_, ‹_›, rfl⟩))

/-- The register map and the offsets of the script notation agree (R21). -/
@[simp] theorem regAt_offset (r : Reg) : regAt r.offset = some r := by
  cases r <;> decide

/-- No command stops, whatever the state (R182, R203). -/
theorem exec_total (i : Instr) (s : State) : ∃ t, exec i s = .next t := by
  cases i <;>
    simp only [exec, execNop, execAclr, execAadd, execAsum, execAfin, execCksum, execUdpcs, execBuild,
      completeOk, raise] <;>
    (try split) <;> (try split) <;> exact ⟨_, rfl⟩

/-- No turn of the engine stops, an illegal word's included (R161, R183). -/
theorem engineTurn_total (s : State) : ∃ t, engineTurn s = .next t := by
  unfold engineTurn complete
  split
  · split
    · exact exec_total _ s
    · exact ⟨_, rfl⟩
  · exact ⟨_, rfl⟩

/-- A run whose first step is known goes on from that step's state. -/
theorem run_succ_of_step (k : Nat) (h : step s = .next t) :
    Host.Core.run Sys2Proof.core (k + 1) s = Host.Core.run Sys2Proof.core k t := by
  have e : Host.Core.step Sys2Proof.core s = .next t := h
  simp only [Host.Core.run, e]

end Sys2Proof.Machine
end

