-- ==== Sys2Proof/Tests/Slice0.lean ====
section
/-! SUPPORT. The model's own tests. Every expected value is from spec/ (the vector it comes from is named),
and every obligation with hypotheses has a witness that meets them. -/

namespace Sys2Proof.Tests

open Sys2Proof Sys2Proof.Machine

/-! ### Small states -/

/-- The next state of an outcome, if there is one. -/
def nextOf (o : Host.Outcome State Fault Refusal) : Option State :=
  match o with
  | .next t => some t
  | .fault _ => none
  | .refused _ => none

/-- A block of the reference parameters whose `PBUF` starts with the given bytes. -/
def withPayload (bs : List Byte) : State := State.reset.setPbuf (cellsFrom 0 bs)

/-- A region for `ASUM` and `CKSUM`. -/
def atRegion (base len : Word) (s : State) : State :=
  s.setParams { s.params with rbase := base, rlen := len }

/-- Payload and coverage lengths. -/
def lengths (plen clen : Word) (s : State) : State :=
  s.setParams { s.params with plen := plen, clen := clen }

/-- "PING". -/
def pingBytes : List Byte := [0x50#8, 0x49#8, 0x4E#8, 0x47#8]

/-- The PING inputs of spec/95_test_vectors.md. -/
def ping : State :=
  (withPayload pingBytes).setParams
    { dmac := 0x66778899AABB#48, smac := 0x001122334455#48, sip := 0xC0A80101#32, dip := 0xC0A80102#32,
      sport := 1234#16, dport := 5678#16, plen := 4#32, clen := 0#32, rbase := 0#32, rlen := 0#32 }

/-- `STATUS` of a block with a command in flight. -/
def busyNow : Status := { busy := true, done := false, err := false, perr := false, ecode := .none }

/-- `STATUS` of a block whose last command ended with `E_LEN`: 0x24. -/
def lenError : Status := { busy := false, done := false, err := true, perr := false, ecode := .len }

/-- The PING inputs with a `BUILD` in flight. -/
def pingBusy : State := (ping.setLatch 0x00000007#32).setStatus busyNow

/-! ### Well-formedness smoke tests: each check refuses an ill-formed term -/

/-- R87: a reserved opcode. -/
theorem test_wf_reservedOpcode : legalWord 0x00000008#32 = false := by decide

/-- R87: `BUILD` with bit 8 set (`C0`). -/
theorem test_wf_strayBitC0 : legalWord 0x00000107#32 = false := by decide

/-- R87: `AADD` with bit 24 set (`CI`). -/
theorem test_wf_strayBitCI : legalWord 0x01000002#32 = false := by decide

/-- R87: `ASUM` with bit 9 set (`CS`). -/
theorem test_wf_strayBitCS : legalWord 0x00000203#32 = false := by decide

/-- R71: the defined words are legal. -/
theorem test_wf_legalWords :
    [0x00000000#32, 0x00000001#32, 0x00FFFF02#32, 0x00000103#32, 0x00000004#32, 0x00000105#32, 0x00000006#32,
      0x00000007#32].all legalWord = true := by decide

/-- R7: each bound of the parameters refuses a pair just outside it. -/
theorem test_wf_config :
    ¬ Config.Legal ⟨2048, 41⟩ ∧ ¬ Config.Legal ⟨131072, 65550⟩ ∧ ¬ Config.Legal ⟨2005, 2048⟩ ∧
    ¬ Config.Legal ⟨131073, 2048⟩ := by decide

/-- R7: the extreme legal pairs and the reference pair. -/
theorem test_wf_legalConfig :
    Config.Legal ⟨0, 42⟩ ∧ Config.Legal ⟨131072, 65549⟩ ∧ Config.Legal ⟨65507, 65549⟩ ∧
    Config.Legal Config.reference := by decide

/-- A buffer whose indices do not rise is not in canonical form. -/
theorem test_wf_memory :
    ¬ Memory.wf [(1, 0x00#8), (1, 0x01#8)] ∧ ¬ Memory.wf [(2, 0x00#8), (1, 0x00#8)] ∧
    Memory.wf [(1, 0x00#8), (2, 0x00#8)] := by decide

/-- R33: a busy block is not done, and no error code stands without an error. -/
theorem test_wf_status :
    ¬ Status.Legal ⟨true, true, false, false, .none⟩ ∧ ¬ Status.Legal ⟨true, false, false, false, .len⟩ ∧
    ¬ Status.Legal ⟨false, false, true, false, .none⟩ ∧ Status.Legal busyNow ∧ Status.Legal lenError := by
  refine ⟨?_, ?_, ?_, ?_, ?_⟩ <;> decide

/-! ### Decoding: words written out from R70 to R72 -/

/-- R71, row `NOP`: `00000000`. -/
theorem test_decode_nop : decode 0x00000000#32 = .ok .nop := by decide

/-- R71, row `ACLR`: `00000001`. -/
theorem test_decode_aclr : decode 0x00000001#32 = .ok .aclr := by decide

/-- R108's example: `AADD 0x0020` is `0x00002002`; bit 8 is `imm16[0]`, bit 23 is `imm16[15]`. -/
theorem test_decode_aadd :
    decode 0x00002002#32 = .ok (.aadd 0x0020#16) ∧ decode 0x00000102#32 = .ok (.aadd 0x0001#16) ∧
    decode 0x00800002#32 = .ok (.aadd 0x8000#16) := by decide

/-- R109: `00000003` is `PBUF`, `00000103` is `FBUF`. -/
theorem test_decode_asum :
    decode 0x00000003#32 = .ok (.asum .pbuf) ∧ decode 0x00000103#32 = .ok (.asum .fbuf) := by decide

/-- R71, row `AFIN`: `00000004`. -/
theorem test_decode_afin : decode 0x00000004#32 = .ok .afin := by decide

/-- R121: `00000005` is `PBUF`, `00000105` is `FBUF`. -/
theorem test_decode_cksum :
    decode 0x00000005#32 = .ok (.cksum .pbuf) ∧ decode 0x00000105#32 = .ok (.cksum .fbuf) := by decide

/-- R71, row `UDPCS`: `00000006`. -/
theorem test_decode_udpcs : decode 0x00000006#32 = .ok .udpcs := by decide

/-- R71, row `BUILD`: `00000007`. -/
theorem test_decode_build : decode 0x00000007#32 = .ok .build := by decide

/-- V37a, V37b, V37c, V37d, V37e: what is refused, and why. -/
theorem test_decode_illegal :
    decode 0x00000008#32 = .error (.reservedOpcode 0x08#8) ∧
    decode 0x00000107#32 = .error (.operandBits 0x07#8) ∧
    decode 0x01000002#32 = .error (.operandBits 0x02#8) ∧
    decode 0x00000203#32 = .error (.operandBits 0x03#8) ∧
    decode 0x000000FF#32 = .error (.reservedOpcode 0xFF#8) := by decide

/-- The host's numbering of the table's bits. -/
theorem test_decodeTableWord :
    decodeTableWord 32 0x00002002 = some (.aadd 0x0020#16) ∧ decodeTableWord 32 0x00000107 = none ∧
    decodeTableWord 8 0x07 = some .build := by decide

/-! ### Primitives (V2, V3, V4) -/

theorem test_fold :
    fold 0x00000000#32 = 0x0000#16 ∧ fold 0x0000FFFF#32 = 0xFFFF#16 ∧ fold 0x00010000#32 = 0x0001#16 ∧
    fold 0x0002C784#32 = 0xC786#16 ∧ fold 0x0001FFFF#32 = 0x0001#16 ∧ fold 0xFFFFFFFF#32 = 0xFFFF#16 ∧
    fold 0xFFFF0001#32 = 0x0001#16 := by decide

theorem test_accAdd :
    accAdd 0x00004500#32 0x0020#16 = 0x00004520#32 ∧ accAdd 0xFFFFFFFF#32 0x0001#16 = 0x00000001#32 ∧
    accAdd 0xFFFFFFFF#32 0xFFFF#16 = 0x0000FFFF#32 ∧ accAdd 0xFFFF0001#32 0xFFFF#16 = 0x00000001#32 ∧
    accAdd 0xFFFFFFFE#32 0x0001#16 = 0xFFFFFFFF#32 ∧ accAdd 0#32 0#16 = 0#32 := by decide

theorem test_sumBytes :
    sumBytes 0#32 [] = 0#32 ∧ sumBytes 0#32 [0xAB#8] = 0x0000AB00#32 ∧
    sumBytes 0#32 [0x01#8, 0x02#8, 0x03#8] = 0x00000402#32 ∧
    sumBytes 0#32 [0x01#8, 0x02#8, 0x03#8, 0x04#8] = 0x00000406#32 ∧
    sumBytes 0#32 pingBytes = 0x00009E90#32 := by decide

theorem test_marshaling :
    be16 1234#16 = [0x04#8, 0xD2#8] ∧ be16 32#16 = [0x00#8, 0x20#8] ∧
    be32 0xC0A80101#32 = [0xC0#8, 0xA8#8, 0x01#8, 0x01#8] ∧
    mac6 0x66778899AABB#48 = [0x66#8, 0x77#8, 0x88#8, 0x99#8, 0xAA#8, 0xBB#8] := by decide

theorem test_cpl16 :
    cpl16 0xC786#16 = 0x3879#16 ∧ cpl16 0x0000#16 = 0xFFFF#16 ∧ cpl16 0xFFFF#16 = 0x0000#16 := by decide

/-! ### Commands -/

/-- V36: `NOP` after `STATUS = 0x24` leaves `STATUS = 0x02`. -/
theorem test_nop :
    (nextOf (exec .nop (accept 0x00000000#32 (State.reset.setStatus lenError)))).map (·.status.word)
      = some 0x02#32 := by decide

/-- V38f: `PERR` survives a `NOP`: `STATUS = 0x0A`. -/
theorem test_nop_keepsPerr :
    (nextOf (exec .nop (accept 0x00000000#32 (protocolError State.reset)))).map (·.status.word)
      = some 0x0A#32 := by decide

/-- V5. -/
theorem test_aclr :
    (nextOf (exec .aclr ((State.reset.setAcc 0x0002C784#32).setCsum 0x1234#16))).map (fun t => (t.acc, t.csum))
      = some (0#32, 0x1234#16) := by decide

/-- V6a. -/
theorem test_aadd :
    (nextOf (exec (.aadd 0x0020#16) (State.reset.setAcc 0x00004500#32))).map (·.acc) = some 0x00004520#32 := by
  decide

/-- V6c: the carry out of bit 31 comes back in. -/
theorem test_aadd_wraps :
    (nextOf (exec (.aadd 0x0001#16) (State.reset.setAcc 0xFFFFFFFF#32))).map (·.acc) = some 0x00000001#32 := by
  decide

/-- V8: an odd region pads on the right, and `ACC` goes on from 0x10. -/
theorem test_asum_odd :
    (nextOf (exec (.asum .pbuf)
      (atRegion 0#32 3#32 ((withPayload [0x01#8, 0x02#8, 0x03#8]).setAcc 0x10#32)))).map (·.acc)
      = some 0x00000412#32 := by decide

/-- V9e: one byte past the end of `PBUF`: `STATUS = 0x44`, `ACC` unchanged. -/
theorem test_asum_invalid :
    (nextOf (exec (.asum .pbuf) (atRegion 2040#32 9#32 (State.reset.setAcc 0x55#32)))).map
      (fun t => (t.status.word, t.acc)) = some (0x44#32, 0x55#32) := by decide

/-- V10a. -/
theorem test_afin :
    (nextOf (exec .afin (State.reset.setAcc 0x0002C784#32))).map (fun t => (t.acc, t.csum))
      = some (0x0000C786#32, 0x3879#16) := by decide

/-- V10c: a fold of 0xFFFF finishes as 0x0000. -/
theorem test_afin_zero :
    (nextOf (exec .afin (State.reset.setAcc 0x0001FFFE#32))).map (fun t => (t.acc, t.csum))
      = some (0x0000FFFF#32, 0x0000#16) := by decide

/-- V11: the old `ACC` is not used. -/
theorem test_cksum :
    (nextOf (exec (.cksum .pbuf)
      (atRegion 0#32 8#32
        ((withPayload [0x00#8, 0x01#8, 0xF2#8, 0x03#8, 0xF4#8, 0xF5#8, 0xF6#8, 0xF7#8]).setAcc 0x55#32)))).map (fun t => (t.acc, t.csum)) = some (0xDDF2#32, 0x220D#16) := by decide

/-- V17c: no 32-bit wrap in the region's end. -/
theorem test_cksum_noWrap :
    (nextOf (exec (.cksum .fbuf) (atRegion 0xFFFFFFFF#32 2#32 State.reset))).map (·.status.word)
      = some 0x44#32 := by decide

/-- V20a: coverage 1, the odd byte in the high half. -/
theorem test_udpcs :
    (nextOf (exec .udpcs (lengths 4#32 1#32 ping))).map (fun t => (t.acc, t.csum))
      = some (0xEE7D#32, 0x1182#16) := by decide

/-- V25c: the length is tested before the coverage. -/
theorem test_udpcs_lenFirst :
    (nextOf (exec .udpcs (lengths 65508#32 70000#32 ping))).map (·.status.word) = some 0x24#32 := by decide

/-- V1 (and R150): the whole frame. -/
theorem test_build :
    (nextOf (exec .build ping)).map (fun t => (t.status.word, t.flen, t.csum, t.acc, t.fbuf.map (·.2))) =
      some (0x02#32, 46#32, 0xC2F1#16, 0x00003D0E#32,
        [0x66#8, 0x77#8, 0x88#8, 0x99#8, 0xAA#8, 0xBB#8, 0x00#8, 0x11#8, 0x22#8, 0x33#8, 0x44#8, 0x55#8, 0x08#8,
          0x00#8]
          ++ [0x45#8, 0x00#8, 0x00#8, 0x20#8, 0x00#8, 0x00#8, 0x00#8, 0x00#8, 0xFF#8, 0x11#8, 0x38#8, 0x79#8,
            0xC0#8, 0xA8#8, 0x01#8, 0x01#8, 0xC0#8, 0xA8#8, 0x01#8, 0x02#8]
          ++ [0x04#8, 0xD2#8, 0x16#8, 0x2E#8, 0x00#8, 0x0C#8, 0xC2#8, 0xF1#8]
          ++ [0x50#8, 0x49#8, 0x4E#8, 0x47#8]) := by decide

/-- V27: partial coverage changes the UDP checksum and not the lengths. -/
theorem test_build_partial :
    (nextOf (exec .build (lengths 4#32 2#32 ping))).map
      (fun t => (t.flen, t.csum, t.acc, t.fbuf.get? 40, t.fbuf.get? 39, t.fbuf.get? 45)) =
      some (46#32, 0x1139#16, 0x0000EEC6#32, some 0x11#8, some 0x0C#8, some 0x47#8) := by decide

/-! ### Host transactions -/

/-- V38a: a write to `STATUS`. -/
theorem test_host_writeStatus :
    hostTransact (.write32 0x04#19 1#32) State.reset = State.reset.setStatus State.reset.perrStatus := by decide

/-- V38b, V38c, V38d, V38e: reserved, misaligned, past the end of `PBUF`, a word access to a buffer. -/
theorem test_host_protocolErrors :
    [Tx.write32 0x44#19 0#32, .read32 0x0A#19, .write8 (BitVec.ofNat 19 (0x20000 + 2048)) 0#8,
      .write32 0x20000#19 0#32].all (fun tx => (hostTransact tx State.reset).status.perr) = true := by decide

/-- V39a, V39b: writes while busy are dropped. -/
theorem test_host_busyWrites :
    hostTransact (.write32 0x28#19 9#32) pingBusy = pingBusy.setStatus pingBusy.perrStatus ∧
    hostTransact (.write32 0x00#19 0#32) pingBusy = pingBusy.setStatus pingBusy.perrStatus := by decide

/-- V39c, V39d: reads while busy raise no protocol error; `STATUS` reads its current value. -/
theorem test_host_busyReads :
    (hostTransact (.read32 0x04#19) pingBusy).replies = [.word 0x01#32] ∧
    (hostTransact (.read8 0x40000#19) pingBusy).status.perr = false ∧
    (hostTransact (.read32 0x3C#19) pingBusy).status.perr = false := by decide

/-- P1 steps 12 to 14 and P2 step 11: `STATUS`, `ACC`, `CSUM` and `FLEN` of a block that has built V1's frame,
each at its own offset. -/
theorem test_host_resultReads :
    (nextOf (exec .build ping)).map (fun t =>
      ([Tx.read32 0x04#19, .read32 0x38#19, .read32 0x3C#19, .read32 0x40#19].foldl
        (fun u tx => hostTransact tx u) t).replies) =
      some [.word 0x00000002#32, .word 0x00003D0E#32, .word 0x0000C2F1#32, .word 0x0000002E#32] := by decide

/-- V40, V41: a register narrower than 32 bits; `DMAC_LO` is not changed. -/
theorem test_host_narrow :
    (hostTransact (.read32 0x20#19) (hostTransact (.write32 0x20#19 0x12345678#32) ping)).replies
      = [.word 0x00005678#32] ∧
    (hostTransact (.write32 0x08#19 0xFFFF6677#32) ping).params.dmac = 0x66778899AABB#48 := by decide

/-- R90's expansions: `setdmac`, `setip` and `load` reach the registers and bytes they name (V1's inputs). -/
theorem test_script_setup :
    (nextOf (Host.Core.run core 7 (State.reset.setSchedule
      (setdmac 0x66#8 0x77#8 0x88#8 0x99#8 0xAA#8 0xBB#8 ++ setip .sip 192#8 168#8 1#8 1#8 ++ load .pbuf 0 pingBytes)))).map
      (fun t => (t.params.dmac, t.params.sip, t.pbuf.map (·.2))) =
      some (0x66778899AABB#48, 0xC0A80101#32, pingBytes) := by decide

/-- P4, steps 8 to 11: both orders of the racy write. Before the engine it is dropped and sets `PERR`; after it,
it is stored. -/
theorem test_script_race :
    (nextOf (Host.Core.run core 4 ((lengths 4#32 2#32 ping).setSchedule
      (cmd .build ++ wr .clen 4#32 ++ wait 0)))).map (fun t => (t.params.clen, t.status.word, t.csum))
      = some (2#32, 0x0A#32, 0x1139#16) ∧
    (nextOf (Host.Core.run core 4 ((lengths 4#32 2#32 ping).setSchedule
      (cmd .build ++ wait 0 ++ wr .clen 4#32)))).map (fun t => (t.params.clen, t.status.word, t.csum))
      = some (4#32, 0x02#32, 0x1139#16) := by decide

/-- The host's probe: a placed word runs as the first command after reset (V30's `BUILD`). -/
theorem test_withFetchWord :
    (nextOf (step (State.reset.withFetchWord 32 0x00000007))).map (fun t => (t.flen, t.csum, t.acc))
      = some (42#32, 0xFFDE#16, 0x00000021#32) := by decide

/-! ### Witnesses: a state and operands that meet all the hypotheses of each obligation -/

/-- One more way to look at a next state: the field `f` of it. -/
def fieldOf {α : Type} (f : State → α) (o : Host.Outcome State Fault Refusal) : Option α := (nextOf o).map f

theorem witness_LegalWordsAreTheTableRows :
    decode 0x00002002#32 = .ok (.aadd 0x0020#16) ∧ (Instr.aadd 0xFFFF#16).row.accepts 0x00002002#32 = true := by
  decide

theorem witness_StepRunsTheScheduledEvent :
    (pingBusy.status.busy = true ∧ decode pingBusy.cmdlatch = .ok .build ∧ pingBusy.schedule = []) ∧
    (pingBusy.setSchedule [.engine]).schedule = .engine :: [] ∧
    (pingBusy.setSchedule [.host (.read32 0x04#19)]).schedule = .host (.read32 0x04#19) :: [] ∧
    (pingBusy.setSchedule [.reset]).schedule = .reset :: [] := by decide

/-- V37a: a busy block with a reserved opcode latched. -/
theorem witness_StepRunsTheScheduledEvent_illegal :
    (pingBusy.setLatch 0x00000008#32).status.busy = true ∧
    decode (pingBusy.setLatch 0x00000008#32).cmdlatch = .error (.reservedOpcode 0x08#8) ∧
    (pingBusy.setLatch 0x00000008#32).schedule = [] ∧
    ((pingBusy.setLatch 0x00000008#32).setSchedule [.engine]).schedule = .engine :: [] := by decide

theorem witness_PlacedWordRunsNext : decode 0x00000007#32 = .ok .build := by decide

theorem witness_CmdWriteIsAcceptedOrDropped :
    State.reset.status.busy = false ∧ pingBusy.status.busy = true := by decide

theorem witness_IllegalWordEndsWithCodeOne :
    State.reset.status.busy = false ∧ State.reset.status.perr = false ∧
    decode 0x000000FF#32 = .error (.reservedOpcode 0xFF#8) := by decide

theorem witness_CompletionStatus : ∃ t, complete pingBusy = .next t ∧ t.status.done = true :=
  ⟨_, rfl, by decide⟩

theorem witness_CommandErrorIsPrecise :
    ∃ t, complete (lengths 2007#32 0#32 pingBusy) = .next t ∧ t.status.err = true := ⟨_, rfl, by decide⟩

/-- R186, R106: the last valid region of each buffer and the first invalid one. -/
theorem witness_CommandErrorCodes_region :
    fieldOf (·.status.ecode) (exec (.asum .pbuf) (atRegion 2040#32 8#32 State.reset)) = some .none ∧
    fieldOf (·.status.ecode) (exec (.asum .pbuf) (atRegion 2040#32 9#32 State.reset)) = some .region ∧
    fieldOf (·.status.ecode) (exec (.asum .fbuf) (atRegion 2048#32 0#32 State.reset)) = some .none ∧
    fieldOf (·.status.ecode) (exec (.asum .fbuf) (atRegion 2049#32 0#32 State.reset)) = some .region ∧
    fieldOf (·.status.ecode) (exec (.cksum .pbuf) (atRegion 2048#32 0#32 State.reset)) = some .none ∧
    fieldOf (·.status.ecode) (exec (.cksum .pbuf) (atRegion 2049#32 0#32 State.reset)) = some .region ∧
    fieldOf (·.status.ecode) (exec (.cksum .fbuf) (atRegion 2040#32 8#32 State.reset)) = some .none ∧
    fieldOf (·.status.ecode) (exec (.cksum .fbuf) (atRegion 2040#32 9#32 State.reset)) = some .region := by
  decide

/-- R184, R185: the last length and coverage each command takes and the first it refuses; R183. -/
theorem witness_CommandErrorCodes_length :
    fieldOf (·.status.ecode) (exec .udpcs (lengths 2048#32 0#32 State.reset)) = some .none ∧
    fieldOf (·.status.ecode) (exec .udpcs (lengths 2049#32 0#32 State.reset)) = some .len ∧
    fieldOf (·.status.ecode) (exec .udpcs (lengths 4#32 4#32 State.reset)) = some .none ∧
    fieldOf (·.status.ecode) (exec .udpcs (lengths 4#32 5#32 State.reset)) = some .cov ∧
    fieldOf (·.status.ecode) (exec .build (lengths 4#32 4#32 State.reset)) = some .none ∧
    fieldOf (·.status.ecode) (exec .build (lengths 4#32 5#32 State.reset)) = some .cov ∧
    fieldOf (·.status.ecode) (exec .build (lengths 2007#32 2008#32 State.reset)) = some .len ∧
    fieldOf (·.status.ecode) (complete (accept 0x00000008#32 State.reset)) = some .illCmd := by decide

/-- A `BUILD` in flight with nothing scheduled, and one whose host polls before the engine has its turn. -/
theorem witness_AcceptedCommandsComplete :
    (pingBusy.status.busy = true ∧ (∀ e ∈ pingBusy.schedule, e ≠ .reset)) ∧
    ((pingBusy.setSchedule (wait 1)).status.busy = true ∧
      (∀ e ∈ (pingBusy.setSchedule (wait 1)).schedule, e ≠ .reset)) := by
  refine ⟨⟨?_, ?_⟩, ⟨?_, ?_⟩⟩ <;> decide

theorem witness_IdleStaysIdle :
    State.reset.status.busy = false ∧ State.reset.schedule = [] ∧
    (State.reset.setSchedule [.engine]).schedule = .engine :: [] := by decide

theorem pingBusy_inv : pingBusy.Inv := by
  refine ⟨?_, ?_, ?_, ?_, ?_⟩ <;> decide

theorem witness_StepKeepsTheInvariant : ∃ t, pingBusy.Inv ∧ step pingBusy = .next t ∧ t.flen = 46#32 :=
  ⟨_, pingBusy_inv, rfl, by decide⟩

theorem witness_ResetMeetsTheInvariant : Config.reference.Legal ∧ Config.Legal ⟨65507, 65549⟩ := by decide

theorem witness_StatusFieldsAndCombinations :
    ∃ t, pingBusy.status.Legal ∧ step pingBusy = .next t ∧ t.status.done = true :=
  ⟨_, by decide, rfl, by decide⟩

theorem witness_PerrIsStickyUntilReset :
    (∃ t, step (protocolError pingBusy) = .next t ∧ (protocolError pingBusy).status.perr = true ∧
      (protocolError pingBusy).schedule = []) ∧
    (∃ t, step ((protocolError pingBusy).setSchedule [.reset]) = .next t ∧
      ((protocolError pingBusy).setSchedule [.reset]).schedule = .reset :: []) :=
  ⟨⟨_, rfl, by decide, by decide⟩, ⟨_, rfl, by decide⟩⟩

/-- A reset that abandons a `BUILD` in flight. -/
theorem witness_ResetValues :
    ∃ t, t = resetBlock pingBusy ∧ pingBusy.status.busy = true ∧ t.status.busy = false ∧ t.params.plen = 0#32 :=
  ⟨_, rfl, by decide, by decide, by decide⟩

/-- Both buffers; the last valid region and the first invalid one. -/
theorem witness_AsumCompletes :
    (atRegion 2040#32 8#32 ping).params.rbase.toNat + (atRegion 2040#32 8#32 ping).params.rlen.toNat
      ≤ ping.cfg.pbufSize ∧
    ping.cfg.fbufSize <
      (atRegion 2040#32 9#32 ping).params.rbase.toNat + (atRegion 2040#32 9#32 ping).params.rlen.toNat := by
  decide

/-- An empty region at the end of a buffer is valid, one past it is not; a region that would wrap is not. -/
theorem witness_CksumCompletes :
    (atRegion 2048#32 0#32 ping).params.rbase.toNat + (atRegion 2048#32 0#32 ping).params.rlen.toNat
      ≤ ping.cfg.fbufSize ∧
    ping.cfg.pbufSize <
      (atRegion 2049#32 0#32 ping).params.rbase.toNat + (atRegion 2049#32 0#32 ping).params.rlen.toNat ∧
    ping.cfg.fbufSize < (atRegion 0xFFFFFFFF#32 2#32 ping).params.rbase.toNat
      + (atRegion 0xFFFFFFFF#32 2#32 ping).params.rlen.toNat := by decide

/-- The three clauses at their bounds: 2048 is taken, 2049 and 65508 are not, coverage 5 of 4 is not. -/
theorem witness_UdpcsCompletes :
    ((lengths 2048#32 2048#32 ping).LenOk ∧ (lengths 2048#32 2048#32 ping).CovOk) ∧
    (lengths 2049#32 0#32 ping).params.plen.toNat > ping.cfg.pbufSize ∧
    (lengths 65508#32 0#32 ping).params.plen.toNat > 65507 ∧
    ((lengths 4#32 5#32 ping).LenOk ∧ (lengths 4#32 5#32 ping).params.clen.toNat > 4) := by decide

/-- The largest parameters R7 allows: there the bound 65507 is the one that decides, for `UDPCS` and for `BUILD`. -/
def largest : State := State.resetWith ⟨131072, 65549⟩

theorem witness_UdpcsCompletes_largest :
    largest.cfg.Legal ∧
    ((lengths 65507#32 65507#32 largest).LenOk ∧ (lengths 65507#32 65507#32 largest).CovOk) ∧
    ((lengths 65508#32 0#32 largest).params.plen.toNat > 65507 ∧
      (lengths 65508#32 0#32 largest).params.plen.toNat ≤ largest.cfg.pbufSize) := by decide

theorem witness_BuildCompletes_largest :
    (lengths 65507#32 65507#32 largest).LenOkBuild ∧ (lengths 65507#32 65507#32 largest).CovOk ∧
    ¬ (lengths 65508#32 0#32 largest).LenOkBuild := by decide

/-- The largest and the smallest payload of the reference parameters. -/
theorem witness_BuildCompletes :
    ((lengths 2006#32 2006#32 ping).LenOkBuild ∧ (lengths 2006#32 2006#32 ping).CovOk) ∧
    ((lengths 0#32 0#32 ping).LenOkBuild ∧ (lengths 0#32 0#32 ping).CovOk) := by decide

theorem witness_AccumulatorCommandsFrame :
    (∃ t, exec .nop ping = .next t) ∧ (∃ t, exec .aclr ping = .next t) ∧
    (∃ t, exec (.aadd 1#16) ping = .next t) ∧ (∃ t, exec (.asum .fbuf) ping = .next t) :=
  ⟨⟨_, rfl⟩, ⟨_, rfl⟩, ⟨_, rfl⟩, ⟨_, rfl⟩⟩

theorem witness_ChecksumCommandsFrame :
    (∃ t, exec .afin ping = .next t) ∧ (∃ t, exec (.cksum .pbuf) ping = .next t) ∧
    (∃ t, exec .udpcs ping = .next t) := ⟨⟨_, rfl⟩, ⟨_, rfl⟩, ⟨_, rfl⟩⟩

theorem witness_BuildFrame :
    (∃ t, exec .build ping = .next t ∧ t.status.err = false) ∧
    (∃ t, exec .build (lengths 2007#32 0#32 ping) = .next t ∧ t.status.err = true) :=
  ⟨⟨_, rfl, by decide⟩, ⟨_, rfl, by decide⟩⟩

theorem witness_BuildLaysOutTheFrame :
    ∃ t, exec .build ping = .next t ∧ t.status.err = false ∧ ping.pbuf.get? 3 = some 0x47#8 :=
  ⟨_, rfl, by decide, by decide⟩

theorem witness_IpChecksumClosedForm :
    (0 : Nat) ≤ 65507 ∧ (65507 : Nat) ≤ 65507 ∧ ipChecksum ping.params 4 = 0x3879#16 := by decide

theorem witness_BuiltHeaderVerifies :
    ping.LenOkBuild ∧ ping.CovOk ∧ (lengths 2006#32 2006#32 ping).LenOkBuild := by decide

/-- Two states that agree on the operands and differ in the rest. -/
theorem witness_BuildDependsOnItsOperandsOnly :
    ∃ t t', exec .build ping = .next t ∧
      exec .build (((ping.setFbuf [(50, 0xAA#8)]).setAcc 7#32).setFlen 50#32) = .next t' ∧
      t.status.err = false ∧ t'.fbuf.get? 50 = some 0xAA#8 ∧ t.fbuf.get? 50 = none :=
  ⟨_, _, rfl, rfl, by decide, by decide, by decide⟩

/-- The bound of R146 from both sides. -/
theorem witness_BuildLengthInvariant :
    ping.cfg.Legal ∧
    (lengths 2006#32 0#32 ping).params.plen.toNat ≤ ping.cfg.fbufSize - 42 ∧
    ping.cfg.fbufSize - 42 < (lengths 2007#32 0#32 ping).params.plen.toNat := by decide

theorem witness_ZeroCoverageMeansFullCoverage :
    ping.LenOkBuild ∧ (lengths 2006#32 0#32 ping).LenOkBuild := by decide

/-- V24 for `UDPCS`, V35 for `BUILD`: sums that fold to 0xFFFF. -/
theorem witness_ZeroChecksumIsKept :
    (∃ t, exec .udpcs ((lengths 0#32 0#32 ping).setParams
        { (lengths 0#32 0#32 ping).params with dport := 0x77B8#16 }) = .next t ∧
      t.status.err = false ∧ t.acc = 0x0000FFFF#32) ∧
    fold (udpSum ping.params.sip ping.params.dip ping.params.sport 0xD91F#16 4
      (ping.pbuf.read ping.fresh 0 4).1) = 0xFFFF#16 := ⟨⟨_, rfl, by decide, by decide⟩, by decide⟩

theorem witness_CksumIsClearSumFinish :
    (atRegion 0#32 4#32 ping).RegionValid .pbuf ∧ (atRegion 2040#32 8#32 ping).RegionValid .fbuf := by decide

theorem witness_EvenRegionsAddUp :
    ping.cfg.Legal ∧ (atRegion 0#32 4#32 ping).RegionValid .pbuf ∧
    2 ≤ (atRegion 0#32 4#32 ping).params.rlen.toNat ∧ 2 % 2 = 0 := by decide

theorem witness_ReadsReturnStoredBytes :
    ping.pbuf.Written 0 4 ∧ ping.pbuf.get? 4 = none := by decide

theorem witness_AccAddIsEndAroundCarry :
    accAdd 0#32 0#16 = 0#32 ∧ 0x1FFFE = ([0xFFFF#16, 0xFFFF#16].map BitVec.toNat).sum := by decide

theorem witness_FinishedSumValue :
    (∀ w ∈ [0#16, 0#16], w = 0#16) ∧ (∃ w ∈ [0#16, 5#16], w ≠ 0#16) ∧
    [1#16, 2#16].Perm [2#16, 1#16] :=
  ⟨by simp, ⟨5#16, by simp, by decide⟩, List.Perm.swap _ _ _⟩

theorem witness_FoldNeedsAtMostTwoPasses : (2 : Nat) ≤ 2 ∧ foldLoop 1 0x0001FFFF = 65536 := by decide

theorem witness_SumBytesPairsFromTheStart :
    [0xAB#8].length % 2 = 1 ∧ pingBytes.length % 2 = 0 := by decide

theorem witness_CommandSumsNeverWrap :
    pingBytes.length ≤ 131072 ∧ (65507 : Nat) ≤ 65507 ∧ pingBytes.length ≤ 65507 := by decide

theorem witness_ChecksumSelfVerifies :
    ∃ c, [0x45#8, 0x00#8].length % 2 = 0 ∧ pingBytes.length % 2 = 0 ∧
      c = finish (sumBytes 0#32 ([0x45#8, 0x00#8] ++ [0x00#8, 0x00#8] ++ pingBytes)) :=
  ⟨_, by decide, by decide, rfl⟩

/-- Even and odd coverage, and the largest length. -/
theorem witness_UdpSumIsTheCanonicalSum :
    (65507 : Nat) ≤ 65507 ∧ pingBytes.length ≤ 4 ∧ [0x50#8].length ≤ 4 := by decide

theorem witness_UdpChecksumSelfVerifies :
    ∃ c, (4 : Nat) ≤ 65507 ∧ [0x50#8].length ≤ 4 ∧
      c = finish (udpSum ping.params.sip ping.params.dip 1234#16 5678#16 4 [0x50#8]) :=
  ⟨_, by decide, by decide, rfl⟩

/-- V28's zero tail, and an odd covered part. -/
theorem witness_ZeroTailNeedsNoCoverage :
    [0x50#8, 0x49#8].length + [0x00#8, 0x00#8].length = 4 ∧ (∀ b ∈ [0x00#8, 0x00#8], b = 0x00#8) ∧
    [0x50#8].length + [0x00#8, 0x00#8].length = 3 := by simp

/-- Each case of R58 at its bounds, and transactions just inside them. -/
theorem witness_ProtocolErrorsAreExactlyTheListed_breaks :
    (Tx.write32 0x44#19 0#32).Breaks ping ∧ (Tx.read32 0x02#19).Breaks ping ∧
    (Tx.write32 0x04#19 0#32).Breaks ping ∧ (Tx.write32 0x40#19 0#32).Breaks ping ∧
    (Tx.read8 (BitVec.ofNat 19 (0x20000 + 2048))).Breaks ping ∧
    (Tx.write8 (BitVec.ofNat 19 (0x40000 + 2048)) 0#8).Breaks ping ∧
    (Tx.write8 0x20000#19 0#8).Breaks pingBusy ∧ (Tx.read16 0x20000#19).Breaks ping := by
  refine ⟨?_, ?_, ?_, ?_, ?_, ?_, ?_, ?_⟩ <;> decide

theorem witness_ProtocolErrorsAreExactlyTheListed_allowed :
    ¬ (Tx.write32 0x34#19 0#32).Breaks ping ∧ ¬ (Tx.read32 0x40#19).Breaks ping ∧
    ¬ (Tx.read8 (BitVec.ofNat 19 (0x20000 + 2047))).Breaks ping ∧
    ¬ (Tx.write8 (BitVec.ofNat 19 (0x40000 + 2047)) 0#8).Breaks ping ∧
    ¬ (Tx.read32 0x04#19).Breaks pingBusy ∧ ∃ t, complete pingBusy = .next t := by
  refine ⟨?_, ?_, ?_, ?_, ?_, ⟨_, rfl⟩⟩ <;> decide

theorem witness_BusyWritesAreDropped :
    pingBusy.status.busy = true ∧ (Tx.write8 0x20000#19 0#8).isWrite = true := by decide

theorem witness_BusyWindowKeepsTheOperands :
    ∃ t, pingBusy.status.busy = true ∧
      t = [Tx.write32 0x28#19 9#32, .read32 0x3C#19].foldl (fun u tx => hostTransact tx u) pingBusy ∧
      t.params.plen = 4#32 := ⟨_, by decide, rfl, by decide⟩

theorem witness_ReadsHaveNoSideEffect :
    (Tx.read32 0x40#19).isWrite = false ∧ (Tx.read8 0x7FFFF#19).isWrite = false := by decide

/-- The last byte of each buffer. -/
theorem witness_BusyReads :
    pingBusy.status.busy = true ∧ 3 < pingBusy.cfg.pbufSize ∧ (3 : Nat) < 0x20000 ∧
    pingBusy.pbuf.get? 3 = some 0x47#8 ∧ pingBusy.cfg.Legal ∧ 2047 < pingBusy.cfg.fbufSize := by decide

/-- The clause for a block that is not busy, at the first and the last byte of each buffer. -/
theorem witness_BusyReads_idle :
    ping.status.busy = false ∧ ping.cfg.Legal ∧ 0 < ping.cfg.pbufSize ∧ ping.pbuf.get? 0 = some 0x50#8 ∧
    2047 < ping.cfg.pbufSize ∧ (ping.setPbuf [(2047, 0xAB#8)]).pbuf.get? 2047 = some 0xAB#8 ∧
    2047 < ping.cfg.fbufSize ∧ (ping.setFbuf [(2047, 0xAB#8)]).fbuf.get? 2047 = some 0xAB#8 := by decide

theorem witness_ParametersReadBack :
    ping.status.busy = false ∧ 0x20#19 ∈ [0x08#19, 0x10#19, 0x20#19, 0x24#19] ∧
    0x34#19 ∈ [0x0C#19, 0x14#19, 0x18#19, 0x1C#19, 0x28#19, 0x2C#19, 0x30#19, 0x34#19] := by decide

theorem witness_MacHalvesAreIndependent : ping.status.busy = false := by decide

/-- The first and the last byte of each buffer. -/
theorem witness_BufferBytesReadBack :
    ping.cfg.Legal ∧ ping.status.busy = false ∧ 0 < ping.cfg.pbufSize ∧ 2047 < ping.cfg.pbufSize ∧
    0 < ping.cfg.fbufSize ∧ 2047 < ping.cfg.fbufSize := by decide

theorem witness_RegistersDoNotAlias :
    ping.status.busy = false ∧ 0x08#19 ∈ [0x08#19, 0x0C#19, 0x10#19, 0x14#19, 0x18#19, 0x1C#19,
      0x20#19, 0x24#19, 0x28#19, 0x2C#19, 0x30#19, 0x34#19] ∧ RegisterOffset 0x0C#19 ∧
    RegisterOffset 0x40#19 ∧ 0x0C#19 ≠ 0x08#19 := by decide

/-- `pingBusy`, whose host is about to read `STATUS`. -/
def pingPolled : State := pingBusy.setSchedule [.host (.read32 0x04#19)]

theorem witness_ProperHostsStaySafe :
    ∃ t, pingPolled.Safe ∧ step pingPolled = .next t ∧
      (∀ tx l, pingPolled.schedule = .host tx :: l → ¬ tx.Breaks pingPolled) ∧ t.status.busy = true := by
  refine ⟨_, ⟨pingBusy_inv, by decide⟩, rfl, fun tx l h => ?_, by decide⟩
  cases h
  decide

end Sys2Proof.Tests
end

section
/-! Proofs of the family of spec/00_scope.md: reads of written bytes (R13, R39, U1) and the invariant right after
reset (R7, R33, R201). -/

namespace Sys2Proof.Machine

/-! ### Reads of buffer bytes -/

namespace Memory

theorem readByte_of_get?_none {m : Memory} {i : Nat} (h : m.get? i = none) (fresh : Nat) :
    m.readByte fresh i = (Config.freeByte fresh, fresh + 1) := by
  simp [readByte, h]

theorem Written.head {m : Memory} {a n : Nat} (h : m.Written a (n + 1)) : ∃ b, m.get? a = some b :=
  Option.isSome_iff_exists.1 (h 0 n.succ_pos)

theorem Written.tail {m : Memory} {a n : Nat} (h : m.Written a (n + 1)) : m.Written (a + 1) n := by
  intro k hk
  rw [Nat.add_right_comm]
  exact h (k + 1) (Nat.succ_lt_succ hk)

theorem read_succ_of_get? {m : Memory} {a : Nat} {b : Byte} (h : m.get? a = some b) (fresh n : Nat) :
    m.read fresh a (n + 1) = (b :: (m.read fresh (a + 1) n).1, (m.read fresh (a + 1) n).2) := by
  simp only [read, readByte_of_get? h]

/-- A read of written bytes draws no free value (U1). -/
theorem read_fresh_of_written {m : Memory} {a n : Nat} (h : m.Written a n) (fresh : Nat) :
    (m.read fresh a n).2 = fresh := by
  induction n generalizing a with
  | zero => rfl
  | succ n ih =>
    obtain ⟨b, hb⟩ := h.head
    rw [read_succ_of_get? hb]
    exact ih h.tail

/-- A read of written bytes returns what is stored at each index (R13). -/
theorem read_getElem?_of_written {m : Memory} {a n k : Nat} (h : m.Written a n) (hk : k < n) (fresh : Nat) :
    (m.read fresh a n).1[k]? = m.get? (a + k) := by
  induction n generalizing a k with
  | zero => exact absurd hk k.not_lt_zero
  | succ n ih =>
    obtain ⟨b, hb⟩ := h.head
    rw [read_succ_of_get? hb]
    cases k with
    | zero => exact hb.symm
    | succ k =>
      calc (m.read fresh (a + 1) n).1[k]?
          = m.get? (a + 1 + k) := ih h.tail (Nat.lt_of_succ_lt_succ hk)
        _ = m.get? (a + (k + 1)) := by rw [Nat.add_right_comm, Nat.add_assoc]

end Memory

/-- Settles O40, by induction on the length of the range: each byte of a written range is the stored one and leaves
the count of draws as it was. -/
theorem readsReturnStoredBytes : Obligations.ReadsReturnStoredBytes := by
  unfold Obligations.ReadsReturnStoredBytes
  refine ⟨fun m fresh a n h => ⟨?noDraw, fun k hk => ?stored⟩, fun m fresh a h => ?oneDraw⟩
  case noDraw => exact Memory.read_fresh_of_written h fresh
  case stored => exact Memory.read_getElem?_of_written h hk fresh
  case oneDraw => rw [Memory.readByte_of_get?_none h]

/-! ### The state right after reset -/

/-- The status after reset is the first of R33's combinations. -/
theorem Status.reset_legal : Status.reset.Legal := .inl ⟨rfl, rfl, rfl, rfl⟩

/-- Nothing is written after reset, so both buffers are canonical and within their sizes. -/
theorem State.resetWith_buffersOk (c : Config) : (State.resetWith c).BuffersOk :=
  ⟨List.Pairwise.nil, List.Pairwise.nil, List.forall_mem_nil _, List.forall_mem_nil _⟩

theorem Config.reference_legal : Config.reference.Legal := by decide

theorem State.resetWith_inv {c : Config} (h : c.Legal) : (State.resetWith c).Inv :=
  have frame : (State.resetWith c).FrameOk := .inl rfl
  have untouched : (State.resetWith c).UntouchedOk := fun _ _ _ => ⟨rfl, rfl, rfl, rfl⟩
  ⟨h, Status.reset_legal, State.resetWith_buffersOk c, frame, untouched⟩

/-- Settles O15: the invariant after reset asks only that the parameters be legal, and the reference pair is. -/
theorem resetMeetsTheInvariant : Obligations.ResetMeetsTheInvariant := by
  unfold Obligations.ResetMeetsTheInvariant
  exact ⟨fun _ h => State.resetWith_inv h, State.resetWith_inv Config.reference_legal⟩

end Sys2Proof.Machine
end

section
/-! Proofs of the family of spec/10_state.md: what every step keeps (R31, R33, R35, R36,
R147, R201). -/

namespace Sys2Proof.Machine

/-! ### What every step keeps -/

/-- A predicate of the state that each update a step is made of keeps: those of a host transaction (R53, R58), of a
command's completion (R161, R182, R144) and of reset (R200), each under the condition it happens in. -/
structure KeptByUpdates (P : State → Prop) : Prop where
  schedule : ∀ {s : State} (l : List Event), P s → P (s.setSchedule l)
  reply : ∀ {s : State} (r : Reply) (n : Nat), P s → P ((s.pushReply r).setFresh n)
  violation : ∀ {s : State}, P s → P (protocolError s)
  accept : ∀ {s : State} (w : Word), s.status.busy = false → P s → P (accept w s)
  params : ∀ {s : State} (p : ParamRegs), s.status.busy = false → P s → P (s.setParams p)
  writePbuf : ∀ {s : State} {i : Nat} (b : Byte), s.status.busy = false → i < s.cfg.pbufSize → P s →
    P (s.setPbuf (s.pbuf.write i [b]))
  writeFbuf : ∀ {s : State} {i : Nat} (b : Byte), s.status.busy = false → i < s.cfg.fbufSize → P s →
    P (s.setFbuf (s.fbuf.write i [b]))
  failed : ∀ {s : State} {code : ECode}, code ≠ .none → P s → P (s.setStatus (s.status.failed code))
  completed : ∀ {s : State} (a : Word) (c : Half) (n : Nat), P s →
    P ((((s.setAcc a).setCsum c).setFresh n).setStatus s.status.completed)
  built : ∀ {s : State}, s.LenOkBuild → P s → P s.built
  reset : ∀ {s : State}, P s → P (resetBlock s)

namespace KeptByUpdates

variable {P : State → Prop} {s t : State}

theorem exec (k : KeptByUpdates P) {i : Instr} (hs : P s) (h : Machine.exec i s = .next t) : P t := by
  obtain ⟨code, hcode, rfl⟩ | ⟨a, c, n, rfl⟩ | ⟨-, hlen, -, rfl⟩ := exec_cases h
  · exact k.failed hcode hs
  · exact k.completed a c n hs
  · exact k.built hlen hs

theorem engineTurn (k : KeptByUpdates P) (hs : P s) (h : Machine.engineTurn s = .next t) : P t := by
  obtain ⟨-, rfl⟩ | ⟨-, ⟨i, -, h⟩ | ⟨e, -, rfl⟩⟩ := engineTurn_cases h
  · exact hs
  · exact k.exec hs h
  · exact k.failed (by decide) hs

theorem hostTransact (k : KeptByUpdates P) (tx : Tx) (hs : P s) : P (Machine.hostTransact tx s) := by
  obtain h | ⟨r, n, -, h | h⟩ | ⟨hidle, ⟨w, h⟩ | ⟨p, h⟩ | ⟨i, b, hi, h⟩ | ⟨i, b, hi, h⟩⟩ :=
    hostTransact_cases tx s <;> rw [h]
  · exact k.violation hs
  · exact k.reply r n hs
  · exact k.reply r n (k.violation hs)
  · exact k.accept w hidle hs
  · exact k.params p hidle hs
  · exact k.writePbuf b hidle hi hs
  · exact k.writeFbuf b hidle hi hs

/-- What every update keeps, every step keeps. -/
theorem step (k : KeptByUpdates P) (hs : P s) (h : Machine.step s = .next t) : P t := by
  obtain ⟨-, h⟩ | ⟨l, -, h⟩ | ⟨tx, l, -, rfl⟩ | ⟨l, -, rfl⟩ := step_cases h
  · exact k.engineTurn hs h
  · exact k.engineTurn (k.schedule l hs) h
  · exact k.hostTransact tx (k.schedule l hs)
  · exact k.reset (k.schedule l hs)

end KeptByUpdates

/-! ### `STATUS` (R33) -/

namespace Status

theorem accepted_legal (x : Status) : x.accepted.Legal := .inr (.inl ⟨rfl, rfl, rfl, rfl⟩)

theorem completed_legal (x : Status) : x.completed.Legal := .inr (.inr (.inl ⟨rfl, rfl, rfl, rfl⟩))

theorem failed_legal (x : Status) {code : ECode} (h : code ≠ .none) : (x.failed code).Legal :=
  .inr (.inr (.inr ⟨rfl, rfl, rfl, h⟩))

/-- At most one of `BUSY`, `DONE` and `ERR` is set in each of the four combinations. -/
theorem Legal.exclusive {x : Status} (h : x.Legal) :
    ¬ (x.busy = true ∧ x.done = true) ∧ ¬ (x.busy = true ∧ x.err = true) ∧ ¬ (x.done = true ∧ x.err = true) := by
  obtain ⟨hb, hd, he, -⟩ | ⟨hb, hd, he, -⟩ | ⟨hb, hd, he, -⟩ | ⟨hb, hd, he, -⟩ := h <;> simp [hb, hd, he]

/-- Where the fields stand in the word a host reads (R33). -/
theorem word_layout (x : Status) :
    x.word.getLsbD 0 = x.busy ∧ x.word.getLsbD 1 = x.done ∧ x.word.getLsbD 2 = x.err ∧
    x.word.getLsbD 3 = x.perr ∧ x.word.extractLsb' 4 4 = x.ecode.code ∧ x.word.extractLsb' 8 24 = 0#24 := by
  obtain ⟨busy, done, err, perr, ecode⟩ := x
  revert busy done err perr
  cases ecode <;> decide

end Status

theorem statusLegal_kept : KeptByUpdates (fun s => s.status.Legal) where
  schedule _ h := h
  reply _ _ h := h
  violation h := h
  accept _ _ _ := Status.accepted_legal _
  params _ _ h := h
  writePbuf _ _ _ h := h
  writeFbuf _ _ _ h := h
  failed hcode _ := Status.failed_legal _ hcode
  completed _ _ _ _ := Status.completed_legal _
  built _ _ := Status.completed_legal _
  reset _ := Status.reset_legal

/-- Settles O16: the layout holds of each value of `STATUS`, and every update a step is made of gives one of the four
combinations. -/
theorem statusFieldsAndCombinations : Obligations.StatusFieldsAndCombinations := by
  unfold Obligations.StatusFieldsAndCombinations
  refine ⟨Status.word_layout, fun s t hs h => ?_⟩
  have legal : t.status.Legal := statusLegal_kept.step hs h
  exact ⟨legal, legal.exclusive⟩

/-! ### The buffers and the frame (R35, R36, R31, R147) -/

namespace Memory

/-- A write forgets nothing. -/
theorem Written.write {m : Memory} {a n : Nat} (h : m.Written a n) (i : Nat) (bs : List Byte) :
    (m.write i bs).Written a n := by
  intro k hk
  rw [get?_write]
  split
  · simp only [isSome_getElem?]; omega
  · exact h k hk

/-- The range of a write is written after it. -/
theorem written_write (m : Memory) (a : Nat) (bs : List Byte) : (m.write a bs).Written a bs.length := by
  intro k hk
  rw [get?_write, if_pos ⟨by omega, by omega⟩]
  simp [hk]

end Memory

theorem ethHeader_length (p : ParamRegs) : (ethHeader p).length = 14 := rfl

theorem ipHeader_length (p : ParamRegs) (n : Nat) (ck : Half) : (ipHeader p n ck).length = 20 := rfl

theorem udpHeader_length (p : ParamRegs) (n : Nat) (ck : Half) : (udpHeader p n ck).length = 8 := rfl

namespace State

/-- A frame is the headers and the payload (R73). -/
theorem frame_length (s : State) : s.frame.length = hdrLen + s.payloadLen := by
  simp [frame, frameBytes, ethHeader_length, ipHeader_length, udpHeader_length, buildPayload, payload, hdrLen]
  omega

variable {s : State}

theorem BuffersOk.writePbuf (h : s.BuffersOk) {i : Nat} {bs : List Byte} (hi : i + bs.length ≤ s.cfg.pbufSize) :
    (s.setPbuf (s.pbuf.write i bs)).BuffersOk := by
  obtain ⟨hp, hf, hps, hfs⟩ := h
  exact ⟨Memory.write_wf hp i bs, hf, Memory.write_bounded hps hi, hfs⟩

theorem BuffersOk.writeFbuf (h : s.BuffersOk) {i : Nat} {bs : List Byte} (hi : i + bs.length ≤ s.cfg.fbufSize) :
    (s.setFbuf (s.fbuf.write i bs)).BuffersOk := by
  obtain ⟨hp, hf, hps, hfs⟩ := h
  exact ⟨hp, Memory.write_wf hf i bs, hps, Memory.write_bounded hfs hi⟩

theorem FrameOk.writeFbuf (h : s.FrameOk) (i : Nat) (bs : List Byte) :
    (s.setFbuf (s.fbuf.write i bs)).FrameOk :=
  h.imp id fun ⟨hmin, hmax, hw⟩ => ⟨hmin, hmax, hw.write i bs⟩

/-- `FLEN` after a `BUILD` is the length of its frame: no length `BUILD` takes wraps it (R141). -/
theorem built_flen_toNat (h : s.LenOkBuild) : s.built.flen.toNat = s.frame.length := by
  obtain ⟨⟨hmax, -⟩, -⟩ := h
  have hsmall : hdrLen + s.payloadLen < 2 ^ 32 := by
    simp only [hdrLen, maxUdpPayload] at hmax ⊢; omega
  rw [frame_length]
  exact (BitVec.toNat_ofNat _ 32).trans (Nat.mod_eq_of_lt hsmall)

/-- The frame of a `BUILD` fits `FBUF` and is wholly written (R147). -/
theorem built_frameOk (h : s.LenOkBuild) : s.built.FrameOk := by
  have hfit := h.2
  have hlen := frame_length s
  have hflen := built_flen_toNat h
  have hmin : 42 ≤ s.frame.length := by rw [hlen]; exact Nat.le_add_right 42 _
  refine .inr ⟨hflen ▸ hmin, ?_, ?_⟩
  · rw [hflen, hlen]; exact hfit
  · rw [hflen]; exact Memory.written_write s.fbuf 0 s.frame

theorem built_buffersOk (h : s.LenOkBuild) (hs : s.BuffersOk) : s.built.BuffersOk := by
  obtain ⟨-, hfit⟩ := h
  have hfit : 0 + s.frame.length ≤ s.cfg.fbufSize := by rw [frame_length]; omega
  exact hs.writeFbuf hfit

end State

/-! ### The invariant -/

theorem inv_kept : KeptByUpdates State.Inv where
  schedule _ h := h
  reply _ _ h := h
  violation h := h
  accept _ _ := fun ⟨hcfg, _, hbuf, hframe, _⟩ =>
    ⟨hcfg, Status.accepted_legal _, hbuf, hframe, fun hidle => nomatch hidle⟩
  params _ _ h := h
  writePbuf b _ hi := fun ⟨hcfg, hst, hbuf, hframe, hreset⟩ =>
    ⟨hcfg, hst, hbuf.writePbuf (bs := [b]) hi, hframe, hreset⟩
  writeFbuf b _ hi := fun ⟨hcfg, hst, hbuf, hframe, hreset⟩ =>
    ⟨hcfg, hst, hbuf.writeFbuf (bs := [b]) hi, hframe.writeFbuf _ [b], hreset⟩
  failed hcode := fun ⟨hcfg, _, hbuf, hframe, _⟩ =>
    ⟨hcfg, Status.failed_legal _ hcode, hbuf, hframe, fun _ _ hnoerr => nomatch hnoerr⟩
  completed _ _ _ := fun ⟨hcfg, _, hbuf, hframe, _⟩ =>
    ⟨hcfg, Status.completed_legal _, hbuf, hframe, fun _ hnotdone => nomatch hnotdone⟩
  built hlen := fun ⟨hcfg, _, hbuf, _, _⟩ =>
    ⟨hcfg, Status.completed_legal _, State.built_buffersOk hlen hbuf, State.built_frameOk hlen,
      fun _ hnotdone => nomatch hnotdone⟩
  reset := fun ⟨hcfg, _⟩ => State.resetWith_inv hcfg

/-- Settles O14: each update a step is made of keeps the invariant; `BUILD` leaves a whole frame, any other completion
leaves the buffers alone, and reset gives the state right after reset. -/
theorem stepKeepsTheInvariant : Obligations.StepKeepsTheInvariant := by
  unfold Obligations.StepKeepsTheInvariant
  exact fun _ _ => inv_kept.step

end Sys2Proof.Machine
end

section
/-! Proofs of the family of spec/10_state.md: the issue of a command (R32, R160) and the register map (R21, R22,
R38, R41). -/

namespace Sys2Proof.Machine

variable {s : State} {r : Reg} {d : Word}

/-! ### Register accesses (R53) -/

theorem hostTransact_write32_of_idle (hidle : s.status.busy = false) :
    hostTransact (.write32 r.offset d) s = writeReg s r d := by
  simp [hostTransact, hostWrite32, hidle]

theorem hostTransact_write32_of_busy (hbusy : s.status.busy = true) :
    hostTransact (.write32 r.offset d) s = protocolError s := by
  simp [hostTransact, hostWrite32, hbusy]

/-- A read answers with the stored value but where R59 leaves it unspecified. -/
theorem hostTransact_read32_of_specified (h : (s.status.busy && busyUnspecified r) = false) :
    hostTransact (.read32 r.offset) s = s.pushReply (.word (readReg s r)) := by
  simp [hostTransact, hostRead32, h]

theorem hostTransact_read32_of_idle (hidle : s.status.busy = false) :
    hostTransact (.read32 r.offset) s = s.pushReply (.word (readReg s r)) :=
  hostTransact_read32_of_specified (by simp [hidle])

/-! ### The issue of a command (R27, R32, R160) -/

/-- All 32 bits of a word are the word. -/
theorem ofNat_toNat_mod (w : Word) : BitVec.ofNat 32 (w.toNat % 2 ^ 32) = w := by
  rw [Nat.mod_eq_of_lt w.isLt, BitVec.ofNat_toNat, BitVec.setWidth_eq]

theorem withFetchWord_toNat (s : State) (w : Word) :
    s.withFetchWord 32 w.toNat = (accept w s).setSchedule (.engine :: s.schedule) := by
  rw [State.withFetchWord, ofNat_toNat_mod]

theorem step_of_engine {l : List Event} (h : s.schedule = .engine :: l) : step s = engineTurn (s.setSchedule l) := by
  simp [step, h]

/-- While busy the engine runs the latched command (R161, R162). -/
theorem engineTurn_of_decode {i : Instr} (hbusy : s.status.busy = true) (hdec : decode s.cmdlatch = .ok i) :
    engineTurn s = exec i s := by
  simp [engineTurn, complete, hbusy, hdec]

/-- Settles O6: the placed word is latched on a busy block, whose engine moves next. -/
theorem placedWordRunsNext : Obligations.PlacedWordRunsNext := by
  unfold Obligations.PlacedWordRunsNext
  intro s w i hdec
  have scheduled : (s.withFetchWord 32 w.toNat).schedule = .engine :: s.schedule := by
    rw [withFetchWord_toNat, State.setSchedule_schedule]
  calc step (s.withFetchWord 32 w.toNat)
      = engineTurn ((s.withFetchWord 32 w.toNat).setSchedule s.schedule) := step_of_engine scheduled
    _ = engineTurn (accept w s) := by rw [withFetchWord_toNat]; rfl
    _ = exec i (accept w s) := engineTurn_of_decode rfl hdec

/-- Settles O7: `CMD` is the register at offset 0, and no state leaves what a read of it answers open. -/
theorem cmdWriteIsAcceptedOrDropped : Obligations.CmdWriteIsAcceptedOrDropped := by
  unfold Obligations.CmdWriteIsAcceptedOrDropped
  refine fun s w => ⟨fun hidle => ?accepted, fun hbusy => ?dropped, ?latch⟩
  case accepted => exact hostTransact_write32_of_idle (r := .cmd) hidle
  case dropped => exact hostTransact_write32_of_busy (r := .cmd) hbusy
  case latch => exact hostTransact_read32_of_specified (r := .cmd) (Bool.and_false _)

/-! ### The register map (R21) -/

theorem regOfIndex_index {i : Nat} (h : regOfIndex i = some r) : r.index = i := by
  unfold regOfIndex at h
  split at h <;> cases h <;> rfl

/-- Every mapped and aligned register offset is that of one of the seventeen registers. -/
theorem exists_reg_of_registerOffset {off : Offset} (h : RegisterOffset off) : ∃ r : Reg, off = r.offset := by
  obtain ⟨haligned, hmapped⟩ := h
  have defined : ∀ i < 17, (regOfIndex i).isSome = true := by decide
  obtain ⟨r, hr⟩ := Option.isSome_iff_exists.1 (defined (off.toNat / 4) (by omega))
  refine ⟨r, BitVec.eq_of_toNat_eq ?_⟩
  rw [Reg.offset, regOfIndex_index hr, BitVec.toNat_ofNat]
  omega

/-- The width of a parameter register (R21); the other registers have none. -/
def Reg.paramWidth : Reg → Option Nat
  | .dmacHi | .smacHi | .sport | .dport => some 16
  | .dmacLo | .smacLo | .sip | .dip | .plen | .clen | .rbase | .rlen => some 32
  | .cmd | .status | .acc | .csum | .flen => none

/-- The parameter registers of 16 bits. -/
def Reg.narrowParams : List Reg := [.dmacHi, .smacHi, .sport, .dport]

/-- The parameter registers of 32 bits. -/
def Reg.wideParams : List Reg := [.dmacLo, .smacLo, .sip, .dip, .plen, .clen, .rbase, .rlen]

/-- The parameter registers, in the order of their indices. -/
def Reg.params : List Reg :=
  [.dmacHi, .dmacLo, .smacHi, .smacLo, .sip, .dip, .sport, .dport, .plen, .clen, .rbase, .rlen]

theorem narrowParams_width : ∀ r ∈ Reg.narrowParams, r.paramWidth = some 16 := by decide

theorem wideParams_width : ∀ r ∈ Reg.wideParams, r.paramWidth = some 32 := by decide

theorem narrowParams_offsets : [0x08#19, 0x10#19, 0x20#19, 0x24#19] = Reg.narrowParams.map Reg.offset := rfl

theorem wideParams_offsets :
    [0x0C#19, 0x14#19, 0x18#19, 0x1C#19, 0x28#19, 0x2C#19, 0x30#19, 0x34#19] = Reg.wideParams.map Reg.offset := rfl

theorem params_width : ∀ r ∈ Reg.params, r.paramWidth.isSome = true := by decide

theorem params_offsets :
    [0x08#19, 0x0C#19, 0x10#19, 0x14#19, 0x18#19, 0x1C#19, 0x20#19, 0x24#19, 0x28#19, 0x2C#19, 0x30#19, 0x34#19] =
      Reg.params.map Reg.offset := rfl

/-! ### Halves of a hardware address (R22, R41) -/

theorem withMacHi_hi (m : Mac) (d : Word) : (withMacHi m d).extractLsb' 32 16 = d.extractLsb' 0 16 := by
  unfold withMacHi; exact BitVec.extractLsb'_append_eq_left

theorem withMacHi_lo (m : Mac) (d : Word) : (withMacHi m d).extractLsb' 0 32 = m.extractLsb' 0 32 := by
  unfold withMacHi; exact BitVec.extractLsb'_append_eq_right

theorem withMacLo_hi (m : Mac) (d : Word) : (withMacLo m d).extractLsb' 32 16 = m.extractLsb' 32 16 := by
  unfold withMacLo; exact BitVec.extractLsb'_append_eq_left

theorem withMacLo_lo (m : Mac) (d : Word) : (withMacLo m d).extractLsb' 0 32 = d := by
  unfold withMacLo; exact BitVec.extractLsb'_append_eq_right

/-- The number of an address whose halves are `hi` and `lo`. -/
theorem macOfHalves_toNat (hi : Half) (lo : Word) : (hi ++ lo).toNat = hi.toNat * 2 ^ 32 + lo.toNat := by
  rw [BitVec.toNat_append, ← Nat.shiftLeft_add_eq_or_of_lt lo.isLt, Nat.shiftLeft_eq]

theorem withMacHi_toNat (m : Mac) (d : Word) :
    (withMacHi m d).toNat = d.toNat % 65536 * 2 ^ 32 + m.toNat % 2 ^ 32 :=
  macOfHalves_toNat (d.extractLsb' 0 16) (m.extractLsb' 0 32)

theorem withMacLo_toNat (m : Mac) (d : Word) :
    (withMacLo m d).toNat = m.toNat / 2 ^ 32 * 2 ^ 32 + d.toNat := by
  have hi : (m.extractLsb' 32 16).toNat = m.toNat / 2 ^ 32 := by
    rw [BitVec.extractLsb'_toNat, Nat.shiftRight_eq_div_pow]
    have := m.isLt
    omega
  rw [← hi]
  exact macOfHalves_toNat (m.extractLsb' 32 16) d

/-- Settles O57: a write of a half makes the address of the new half and the old other one. -/
theorem macHalvesAreIndependent : Obligations.MacHalvesAreIndependent := by
  unfold Obligations.MacHalvesAreIndependent
  refine fun s d hidle =>
    ⟨⟨_, ?dmacHi, withMacHi_toNat s.params.dmac d⟩, ⟨_, ?dmacLo, withMacLo_toNat s.params.dmac d⟩,
      ⟨_, ?smacHi, withMacHi_toNat s.params.smac d⟩, ⟨_, ?smacLo, withMacLo_toNat s.params.smac d⟩⟩
  case dmacHi => exact hostTransact_write32_of_idle (r := .dmacHi) hidle
  case dmacLo => exact hostTransact_write32_of_idle (r := .dmacLo) hidle
  case smacHi => exact hostTransact_write32_of_idle (r := .smacHi) hidle
  case smacLo => exact hostTransact_write32_of_idle (r := .smacLo) hidle

/-! ### Parameter registers (R21, R38) -/

/-- A write of a parameter register changes the parameters alone. -/
theorem writeReg_param {k : Nat} (s : State) (d : Word) (h : r.paramWidth = some k) :
    ∃ p, writeReg s r d = s.setParams p := by
  cases r <;> cases h <;> exact ⟨_, rfl⟩

/-- Narrowing and zero extension keep the low 16 bits (R38). -/
theorem setWidth_narrow (d : Word) : (d.setWidth 16).setWidth 32 = BitVec.ofNat 32 (d.toNat % 2 ^ 16) := by
  apply BitVec.eq_of_toNat_eq
  simp only [BitVec.toNat_setWidth, BitVec.toNat_ofNat]

/-- A parameter register holds what was written to it, narrowed to its width (R38). -/
theorem readReg_writeReg_same {k : Nat} (s : State) (d : Word) (h : r.paramWidth = some k) :
    readReg (writeReg s r d) r = BitVec.ofNat 32 (d.toNat % 2 ^ k) := by
  have whole : d = BitVec.ofNat 32 (d.toNat % 2 ^ 32) := (ofNat_toNat_mod d).symm
  have upper (m : Mac) : ((withMacHi m d).extractLsb' 32 16).setWidth 32 = BitVec.ofNat 32 (d.toNat % 2 ^ 16) := by
    rw [withMacHi_hi]; exact setWidth_narrow d
  cases r <;> cases h
  case dmacHi | smacHi => exact upper _
  case dmacLo | smacLo => exact (withMacLo_lo _ d).trans whole
  case sport | dport => exact setWidth_narrow d
  all_goals exact whole

/-- A write of a parameter register leaves every other register as it was; two halves of one address share a
field, and the other registers have fields of their own. -/
theorem readReg_writeReg_of_ne {k : Nat} {other : Reg} (s : State) (d : Word) (h : r.paramWidth = some k)
    (hne : other ≠ r) : readReg (writeReg s r d) other = readReg s other := by
  cases r <;> cases h <;> cases other <;>
    simp [writeReg, writeParam, readReg, withMacHi_lo, withMacLo_hi] at hne ⊢

/-- A write and then a read of a parameter register answer with the data, narrowed to the register's width, and
raise no error. -/
theorem read32_write32_param {k : Nat} (d : Word) (hidle : s.status.busy = false) (h : r.paramWidth = some k) :
    (hostTransact (.read32 r.offset) (hostTransact (.write32 r.offset d) s)).replies =
      s.replies ++ [.word (BitVec.ofNat 32 (d.toNat % 2 ^ k))] ∧
    (hostTransact (.write32 r.offset d) s).status = s.status := by
  have same := readReg_writeReg_same s d h
  obtain ⟨p, hp⟩ := writeReg_param s d h
  rw [hp] at same
  rw [hostTransact_write32_of_idle hidle, hp, hostTransact_read32_of_idle (s := s.setParams p) hidle, same]
  exact ⟨rfl, rfl⟩

/-- Settles O56: the first four offsets are those of the registers of 16 bits, the others of 32, where narrowing keeps
all of the data. -/
theorem parametersReadBack : Obligations.ParametersReadBack := by
  unfold Obligations.ParametersReadBack
  intro s d hidle
  rw [narrowParams_offsets, wideParams_offsets, List.forall_mem_map, List.forall_mem_map]
  refine ⟨fun r hr => ?narrow, fun r hr => ?wide⟩
  case narrow => exact read32_write32_param d hidle (narrowParams_width r hr)
  case wide =>
    have back := read32_write32_param d hidle (wideParams_width r hr)
    rwa [ofNat_toNat_mod] at back

/-- The registers a write of one parameter register may not reach answer as before. -/
theorem read32_write32_of_ne {k : Nat} {other : Reg} (d : Word) (hidle : s.status.busy = false)
    (h : r.paramWidth = some k) (hne : other ≠ r) :
    (hostTransact (.read32 other.offset) (hostTransact (.write32 r.offset d) s)).replies =
      (hostTransact (.read32 other.offset) s).replies := by
  have keeps := readReg_writeReg_of_ne s d h hne
  obtain ⟨p, hp⟩ := writeReg_param s d h
  rw [hp] at keeps
  rw [hostTransact_write32_of_idle hidle, hp, hostTransact_read32_of_idle (s := s.setParams p) hidle,
    hostTransact_read32_of_idle hidle, keeps]
  rfl

/-- Settles O59: both offsets are those of registers, two different ones because the offsets differ. -/
theorem registersDoNotAlias : Obligations.RegistersDoNotAlias := by
  unfold Obligations.RegistersDoNotAlias
  intro s d off other hidle hoff hother hne
  rw [params_offsets] at hoff
  obtain ⟨r, hr, rfl⟩ := List.mem_map.1 hoff
  obtain ⟨r', rfl⟩ := exists_reg_of_registerOffset hother
  obtain ⟨k, hk⟩ := Option.isSome_iff_exists.1 (params_width r hr)
  exact read32_write32_of_ne d hidle hk fun h => hne (congrArg Reg.offset h)

end Sys2Proof.Machine
end

section
/-! Proofs of the family of spec/20_memory.md: what each command leaves unchanged (R61, R147, R148). -/

namespace Sys2Proof.Machine

variable {s t : State} {i : Instr}

/-! ### What a command's completion keeps (R61, R161, R182) -/

/-- No command touches `PERR`: completion and a command error keep it. -/
theorem exec_perr (h : exec i s = .next t) : t.status.perr = s.status.perr := by
  obtain ⟨code, -, rfl⟩ | ⟨a, c, n, rfl⟩ | ⟨-, -, -, rfl⟩ := exec_cases h
  · exact Status.failed_perr s.status code
  · exact Status.completed_perr s.status
  · exact Status.completed_perr s.status

/-- Every command but `BUILD` writes `ACC`, `CSUM` and `STATUS` at most (and counts its draws). -/
theorem exec_of_ne_build (h : exec i s = .next t) (hi : i ≠ .build) :
    ∃ a c n x, t = (((s.setAcc a).setCsum c).setFresh n).setStatus x := by
  obtain ⟨code, -, rfl⟩ | ⟨a, c, n, rfl⟩ | ⟨rfl, -⟩ := exec_cases h
  · exact ⟨s.acc, s.csum, s.fresh, _, rfl⟩
  · exact ⟨a, c, n, _, rfl⟩
  · exact absurd rfl hi

/-- What every command but `BUILD` leaves unchanged. -/
theorem exec_frame_of_ne_build (h : exec i s = .next t) (hi : i ≠ .build) :
    t.flen = s.flen ∧ t.params = s.params ∧ t.cmdlatch = s.cmdlatch ∧ t.cfg = s.cfg ∧
    t.status.perr = s.status.perr ∧
    (∀ a, t.pbuf.get? a = s.pbuf.get? a ∧ t.fbuf.get? a = s.fbuf.get? a) ∧
    t.pbuf = s.pbuf ∧ t.fbuf = s.fbuf := by
  have hperr := exec_perr h
  obtain ⟨a, c, n, x, rfl⟩ := exec_of_ne_build h hi
  exact ⟨rfl, rfl, rfl, rfl, hperr, fun _ => ⟨rfl, rfl⟩, rfl, rfl⟩

/-- `NOP` writes `STATUS` alone (R163). -/
theorem exec_nop_acc (h : exec .nop s = .next t) : t.acc = s.acc := by
  cases h
  rfl

theorem exec_asum_csum {sel : BufSel} (h : exec (.asum sel) s = .next t) : t.csum = s.csum := by
  simp only [exec, execAsum] at h
  split at h <;> cases h <;> rfl

/-- Settles O27: none of the four is `BUILD`, and none of them finishes a sum. -/
theorem accumulatorCommandsFrame : Obligations.AccumulatorCommandsFrame := by
  unfold Obligations.AccumulatorCommandsFrame
  intro i s t h hi
  obtain rfl | rfl | ⟨imm16, rfl⟩ | ⟨sel, rfl⟩ := hi
  case inl => exact ⟨fun _ => exec_nop_acc h, by cases h; rfl, exec_frame_of_ne_build h nofun⟩
  case inr.inl => exact ⟨nofun, by cases h; rfl, exec_frame_of_ne_build h nofun⟩
  case inr.inr.inl => exact ⟨nofun, by cases h; rfl, exec_frame_of_ne_build h nofun⟩
  case inr.inr.inr => exact ⟨nofun, exec_asum_csum h, exec_frame_of_ne_build h nofun⟩

/-- Settles O28: none of the three is `BUILD`. -/
theorem checksumCommandsFrame : Obligations.ChecksumCommandsFrame := by
  unfold Obligations.ChecksumCommandsFrame
  intro i s t h hi
  have hne : i ≠ .build := by
    obtain rfl | ⟨sel, rfl⟩ | rfl := hi <;> nofun
  exact exec_frame_of_ne_build h hne

/-! ### `BUILD` (R144, R147, R148) -/

/-- Everything `BUILD` can do: leave a frame, or report an error and nothing else. -/
theorem exec_build_cases (h : exec .build s = .next t) :
    t = s.built ∨ ∃ code, t = s.setStatus (s.status.failed code) := by
  simp only [exec, execBuild] at h
  split at h
  · split at h <;> cases h
    · exact .inl rfl
    · exact .inr ⟨.cov, rfl⟩
  · cases h
    exact .inr ⟨.len, rfl⟩

/-- Past the frame a `BUILD` writes no byte of `FBUF` (R147). -/
theorem built_get?_of_ge {a : Nat} (ha : 42 + s.params.plen.toNat ≤ a) :
    s.built.fbuf.get? a = s.fbuf.get? a := by
  have beyond : ¬ (0 ≤ a ∧ a < 0 + s.frame.length) := by
    rw [State.frame_length, hdrLen, State.payloadLen]
    omega
  exact (Memory.get?_write s.fbuf 0 s.frame a).trans (if_neg beyond)

/-- Every byte of the frame is written by a `BUILD` (R147). -/
theorem built_get?_isSome {a : Nat} (ha : a < 42 + s.params.plen.toNat) :
    (s.built.fbuf.get? a).isSome = true := by
  have inside : a < s.frame.length := by rwa [State.frame_length]
  have written := Memory.written_write s.fbuf 0 s.frame a inside
  rwa [Nat.zero_add] at written

/-- Settles O29: `BUILD` leaves a frame of `42 + N` bytes or changes `STATUS` alone. -/
theorem buildFrame : Obligations.BuildFrame := by
  unfold Obligations.BuildFrame
  intro s t h
  have hperr := exec_perr h
  obtain rfl | ⟨code, rfl⟩ := exec_build_cases h
  case inl =>
    exact ⟨rfl, rfl, rfl, hperr, rfl, fun _ => built_get?_of_ge, fun _ _ => built_get?_isSome, nofun⟩
  case inr =>
    exact ⟨rfl, rfl, rfl, hperr, rfl, fun _ _ => rfl, nofun, fun _ => ⟨rfl, rfl, rfl, rfl⟩⟩

end Sys2Proof.Machine
end

section
/-! Proofs of the family of spec/20_memory.md: the protocol errors (R50, R57, R58), the busy window (R62, R63) and
the reads (R60). -/

namespace Sys2Proof.Machine

variable {s t : State} {r : Reg} {d : Word} {off : Offset} {c : Config} {tx : Tx}

/-! ### Where an access lands (R21, R50, R57) -/

theorem offset_registerOffset (r : Reg) : RegisterOffset r.offset := by
  cases r <;> decide

/-- An offset that is not mapped or not aligned reaches no register. -/
theorem regAt_of_not_registerOffset (h : ¬ RegisterOffset off) : regAt off = none := by
  unfold regAt
  split
  · rename_i haligned
    cases hr : regOfIndex (off.toNat / 4) with
    | none => rfl
    | some r =>
      have hoff : off = r.offset := BitVec.eq_of_toNat_eq (by
        rw [Reg.offset, regOfIndex_index hr, BitVec.toNat_ofNat]
        have := off.isLt
        omega)
      exact absurd (hoff ▸ offset_registerOffset r) h
  · rfl

theorem byteAt_of_not_bufferOffset (h : ¬ BufferOffset c off) : byteAt c off = none := by
  unfold byteAt
  rw [if_neg fun hp => h (.inl hp), if_neg fun hf => h (.inr hf)]

theorem exists_byteAt_of_bufferOffset (h : BufferOffset c off) : ∃ sel i, byteAt c off = some (sel, i) := by
  unfold byteAt
  split
  · exact ⟨_, _, rfl⟩
  · rename_i hp
    rw [if_pos (h.resolve_left hp)]
    exact ⟨_, _, rfl⟩

/-! ### Register writes (R58 case 3) -/

/-- The registers a host may only read. -/
def Reg.readOnly : List Reg := [.status, .acc, .csum, .flen]

theorem mem_readOnly_iff (r : Reg) :
    r ∈ Reg.readOnly ↔
      r.offset.toNat = 0x04 ∨ r.offset.toNat = 0x38 ∨ r.offset.toNat = 0x3C ∨ r.offset.toNat = 0x40 := by
  cases r <;> decide

theorem writeReg_readOnly (s : State) (d : Word) (h : r ∈ Reg.readOnly) : writeReg s r d = protocolError s := by
  simp only [Reg.readOnly, List.mem_cons, List.not_mem_nil, or_false] at h
  obtain rfl | rfl | rfl | rfl := h <;> rfl

/-- A register that is not read-only is `CMD` or a parameter register. -/
theorem cmd_or_param_of_not_readOnly (h : r ∉ Reg.readOnly) : r = .cmd ∨ ∃ k, r.paramWidth = some k := by
  revert h
  cases r <;> simp [Reg.readOnly, Reg.paramWidth]

theorem writeReg_perr (s : State) (d : Word) (h : r ∉ Reg.readOnly) :
    (writeReg s r d).status.perr = s.status.perr := by
  obtain rfl | ⟨k, hk⟩ := cmd_or_param_of_not_readOnly h
  · exact Status.accepted_perr s.status
  · obtain ⟨p, hp⟩ := writeReg_param s d hk
    rw [hp, State.setParams_status]

/-- A write at a register's offset is listed when the register is read-only or the block is busy. -/
theorem breaks_write32_offset_iff :
    (Tx.write32 r.offset d).Breaks s ↔ r ∈ Reg.readOnly ∨ s.status.busy = true :=
  (or_iff_right (not_not_intro (offset_registerOffset r))).trans (by simp only [mem_readOnly_iff, or_assoc])

/-! ### Byte accesses (R53, R59) -/

theorem hostTransact_write8_of_busy (b : Byte) (hbusy : s.status.busy = true) :
    hostTransact (.write8 off b) s = protocolError s := by
  simp only [hostTransact, hostWrite8, hbusy, if_true]
  split <;> rfl

/-- The buffer that `sel` selects takes `m`. -/
def State.setBuf (s : State) : BufSel → Memory → State
  | .pbuf, m => s.setPbuf m
  | .fbuf, m => s.setFbuf m

@[simp] theorem State.setBuf_buf (s : State) (sel : BufSel) (m : Memory) : (s.setBuf sel m).buf sel = m := by
  cases sel <;> rfl

@[simp] theorem State.setBuf_cfg (s : State) (sel : BufSel) (m : Memory) : (s.setBuf sel m).cfg = s.cfg := by
  cases sel <;> rfl

@[simp] theorem State.setBuf_status (s : State) (sel : BufSel) (m : Memory) :
    (s.setBuf sel m).status = s.status := by
  cases sel <;> rfl

/-- A byte write while idle stores the byte in the buffer its offset belongs to. -/
theorem hostTransact_write8_of_idle {sel : BufSel} {i : Nat} (b : Byte) (hidle : s.status.busy = false)
    (h : byteAt s.cfg off = some (sel, i)) :
    hostTransact (.write8 off b) s = s.setBuf sel ((s.buf sel).write i [b]) := by
  cases sel <;> simp [hostTransact, hostWrite8, h, hidle, State.setBuf, State.buf]

/-- A byte read of `PBUF` at any time, and of `FBUF` while idle, answers from the buffer. -/
theorem hostTransact_read8_of_specified {sel : BufSel} {i : Nat} (h : byteAt s.cfg off = some (sel, i))
    (hspec : sel = .fbuf → s.status.busy = false) :
    hostTransact (.read8 off) s = replyByte s (s.buf sel) i := by
  cases sel with
  | pbuf => simp [hostTransact, hostRead8, h, State.buf]
  | fbuf => simp [hostTransact, hostRead8, h, State.buf, hspec rfl]

/-- A byte read of `FBUF` while busy answers with a free value (U2). -/
theorem hostTransact_read8_fbuf_of_busy {i : Nat} (h : byteAt s.cfg off = some (.fbuf, i))
    (hbusy : s.status.busy = true) : hostTransact (.read8 off) s = replyFreeByte s := by
  simp [hostTransact, hostRead8, h, hbusy]

/-- A read of `ACC`, `CSUM` or `FLEN` while busy answers with a free value (U2). -/
theorem hostTransact_read32_of_unspecified (h : (s.status.busy && busyUnspecified r) = true) :
    hostTransact (.read32 r.offset) s = replyFreeWord s := by
  simp [hostTransact, hostRead32, h]

theorem replyByte_cases (s : State) (m : Memory) (i : Nat) :
    ∃ r n, s.fresh ≤ n ∧ replyByte s m i = (s.pushReply r).setFresh n := by
  refine ⟨_, _, ?_, rfl⟩
  obtain ⟨b, -, h⟩ | ⟨-, h⟩ := m.readByte_cases s.fresh i <;> simp [h]

/-! ### The listed transactions and the others (R58) -/

/-- A listed write has no effect but `PERR`. -/
theorem hostTransact_of_breaks_write (h : tx.Breaks s) (hw : tx.isWrite = true) :
    hostTransact tx s = protocolError s := by
  cases tx with
  | read32 | read16 | read8 => cases hw
  | write16 => rfl
  | write32 off d =>
    by_cases hoff : RegisterOffset off
    · obtain ⟨r, rfl⟩ := exists_reg_of_registerOffset hoff
      cases hb : s.status.busy with
      | true => exact hostTransact_write32_of_busy hb
      | false =>
        have hr := (breaks_write32_offset_iff.1 h).resolve_right (by simp [hb])
        rw [hostTransact_write32_of_idle hb, writeReg_readOnly s d hr]
    · simp [hostTransact, hostWrite32, regAt_of_not_registerOffset hoff]
  | write8 off b =>
    obtain hoff | hb := h
    · simp [hostTransact, hostWrite8, byteAt_of_not_bufferOffset hoff]
    · exact hostTransact_write8_of_busy b hb

/-- A listed read sets `PERR` and answers with a free value (U3). -/
theorem hostTransact_of_breaks_read (h : tx.Breaks s) (hr : tx.isWrite = false) :
    ∃ r, hostTransact tx s = ((protocolError s).pushReply r).setFresh (s.fresh + 1) := by
  cases tx with
  | write32 | write16 | write8 => cases hr
  | read16 => exact ⟨.half (Config.freeHalf s.fresh), rfl⟩
  | read32 off =>
    refine ⟨.word (Config.freeWord s.fresh), ?_⟩
    simp only [hostTransact, hostRead32, regAt_of_not_registerOffset h]
    rfl
  | read8 off =>
    refine ⟨.byte (Config.freeByte s.fresh), ?_⟩
    simp only [hostTransact, hostRead8, byteAt_of_not_bufferOffset h]
    rfl

/-- A read that is not listed answers and changes nothing else. -/
theorem hostTransact_of_not_breaks_read (h : ¬ tx.Breaks s) (hr : tx.isWrite = false) :
    ∃ r n, s.fresh ≤ n ∧ hostTransact tx s = (s.pushReply r).setFresh n := by
  cases tx with
  | write32 | write16 | write8 => cases hr
  | read16 => exact absurd trivial h
  | read32 off =>
    obtain ⟨r, rfl⟩ := exists_reg_of_registerOffset (not_not.1 h)
    cases hspec : s.status.busy && busyUnspecified r with
    | true => exact ⟨_, s.fresh + 1, Nat.le_succ _, hostTransact_read32_of_unspecified hspec⟩
    | false => exact ⟨_, s.fresh, Nat.le_refl _, hostTransact_read32_of_specified hspec⟩
  | read8 off =>
    obtain ⟨sel, i, hi⟩ := exists_byteAt_of_bufferOffset (not_not.1 h)
    by_cases hspec : sel = .fbuf → s.status.busy = false
    · rw [hostTransact_read8_of_specified hi hspec]
      exact replyByte_cases s _ i
    · obtain ⟨rfl, hb⟩ := Classical.not_imp.1 hspec
      exact ⟨_, s.fresh + 1, Nat.le_succ _, hostTransact_read8_fbuf_of_busy hi (Bool.eq_true_of_not_eq_false hb)⟩

/-- A write that is not listed is performed, and no write that is performed touches `PERR`. -/
theorem hostTransact_perr_of_not_breaks_write (h : ¬ tx.Breaks s) (hw : tx.isWrite = true) :
    (hostTransact tx s).status.perr = s.status.perr := by
  cases tx with
  | read32 | read16 | read8 => cases hw
  | write16 => exact absurd trivial h
  | write32 off d =>
    have hoff : RegisterOffset off := not_not.1 fun hoff => h (.inl hoff)
    obtain ⟨r, rfl⟩ := exists_reg_of_registerOffset hoff
    obtain ⟨hr, hb⟩ := not_or.1 (breaks_write32_offset_iff.not.1 h)
    rw [hostTransact_write32_of_idle (Bool.eq_false_of_not_eq_true hb), writeReg_perr s d hr]
  | write8 off b =>
    obtain ⟨hoff, hb⟩ := not_or.1 h
    obtain ⟨sel, i, hi⟩ := exists_byteAt_of_bufferOffset (not_not.1 hoff)
    rw [hostTransact_write8_of_idle b (Bool.eq_false_of_not_eq_true hb) hi, State.setBuf_status]

/-- Every listed transaction sets `PERR`. -/
theorem hostTransact_perr_of_breaks (h : tx.Breaks s) : (hostTransact tx s).status.perr = true := by
  cases hw : tx.isWrite with
  | true =>
    rw [hostTransact_of_breaks_write h hw]
    rfl
  | false =>
    obtain ⟨r, hr⟩ := hostTransact_of_breaks_read h hw
    rw [hr]
    rfl

/-- No other transaction touches `PERR`. -/
theorem hostTransact_perr_of_not_breaks (h : ¬ tx.Breaks s) :
    (hostTransact tx s).status.perr = s.status.perr := by
  cases hw : tx.isWrite with
  | true => exact hostTransact_perr_of_not_breaks_write h hw
  | false =>
    obtain ⟨r, n, -, hr⟩ := hostTransact_of_not_breaks_read h hw
    rw [hr]
    rfl

/-- No completion touches `PERR`, an illegal word's included (R161, R183). -/
theorem complete_perr (h : complete s = .next t) : t.status.perr = s.status.perr := by
  unfold complete at h
  split at h
  · exact exec_perr h
  · cases h
    rfl

/-- Settles O51: a listed transaction is a protocol error, by whether it writes; any other is performed. -/
theorem protocolErrorsAreExactlyTheListed : Obligations.ProtocolErrorsAreExactlyTheListed := by
  unfold Obligations.ProtocolErrorsAreExactlyTheListed
  refine ⟨fun tx s => ⟨hostTransact_of_breaks_write, fun h hr => ?listedRead, hostTransact_perr_of_not_breaks⟩,
    fun s t => complete_perr⟩
  case listedRead =>
    obtain ⟨r, hr⟩ := hostTransact_of_breaks_read h hr
    exact ⟨r, s.fresh + 1, hr⟩

/-! ### `PERR` along a run (R58, R63, R200) -/

theorem engineTurn_perr (h : engineTurn s = .next t) : t.status.perr = s.status.perr := by
  unfold engineTurn at h
  split at h
  · exact complete_perr h
  · cases h
    rfl

/-- What comes next does not decide what is listed. -/
theorem breaks_setSchedule_iff (tx : Tx) (s : State) (l : List Event) :
    tx.Breaks (s.setSchedule l) ↔ tx.Breaks s := by
  cases tx <;> exact Iff.rfl

/-- Settles O17: a listed transaction sets `PERR`, and every other event but reset keeps it. -/
theorem perrIsStickyUntilReset : Obligations.PerrIsStickyUntilReset := by
  unfold Obligations.PerrIsStickyUntilReset
  refine fun s t h => ⟨fun hperr hnoreset => ?sticky, fun l hl => ?cleared⟩
  case sticky =>
    obtain ⟨-, h⟩ | ⟨l, -, h⟩ | ⟨tx, l, -, rfl⟩ | ⟨l, hl, -⟩ := step_cases h
    · exact (engineTurn_perr h).trans hperr
    · exact (engineTurn_perr h).trans hperr
    · by_cases hb : tx.Breaks (s.setSchedule l)
      · exact hostTransact_perr_of_breaks hb
      · exact (hostTransact_perr_of_not_breaks hb).trans hperr
    · exact absurd hl (hnoreset l)
  case cleared =>
    simp only [step, hl] at h
    cases h
    rfl

/-- A step whose transaction, if it has one, is not listed leaves no protocol error behind. -/
theorem step_clean (hs : s.Clean) (h : step s = .next t)
    (hproper : ∀ tx l, s.schedule = .host tx :: l → ¬ tx.Breaks s) : t.Clean := by
  obtain ⟨-, h⟩ | ⟨l, -, h⟩ | ⟨tx, l, hl, rfl⟩ | ⟨l, -, rfl⟩ := step_cases h
  · exact (engineTurn_perr h).trans hs
  · exact (engineTurn_perr h).trans hs
  · have hb : ¬ tx.Breaks (s.setSchedule l) := (breaks_setSchedule_iff tx s l).not.2 (hproper tx l hl)
    exact (hostTransact_perr_of_not_breaks hb).trans hs
  · rfl

/-- Settles O60: every step keeps the invariant, and a proper one keeps `PERR` clear. -/
theorem properHostsStaySafe : Obligations.ProperHostsStaySafe := by
  unfold Obligations.ProperHostsStaySafe
  exact fun s t ⟨hinv, hclean⟩ h hproper => ⟨inv_kept.step hinv h, step_clean hclean h hproper⟩

/-! ### While a command is in flight (R58 case 4, R62) -/

theorem breaks_of_busy_write (hbusy : s.status.busy = true) (hw : tx.isWrite = true) : tx.Breaks s := by
  cases tx with
  | read32 | read16 | read8 => cases hw
  | write16 => trivial
  | write32 => simp [Tx.Breaks, hbusy]
  | write8 => exact .inr hbusy

/-- Settles O52: while busy every write is listed. -/
theorem busyWritesAreDropped : Obligations.BusyWritesAreDropped := by
  unfold Obligations.BusyWritesAreDropped
  exact fun tx s hbusy hw => hostTransact_of_breaks_write (breaks_of_busy_write hbusy hw) hw

/-- The state less what a host can change while a command is in flight: `PERR` and the model's own answers
and count of draws. -/
def State.engineView (s : State) : State :=
  { s with status := { s.status with perr := false }, replies := [], fresh := 0 }

/-- While busy a transaction changes nothing the engine will find. -/
theorem hostTransact_engineView (tx : Tx) (hbusy : s.status.busy = true) :
    (hostTransact tx s).engineView = s.engineView := by
  obtain h | ⟨r, n, -, h | h⟩ | ⟨hidle, -⟩ := hostTransact_cases tx s
  · rw [h]; rfl
  · rw [h]; rfl
  · rw [h]; rfl
  · exact Bool.noConfusion (hbusy.symm.trans hidle)

/-- While busy no list of transactions changes anything the engine will find. -/
theorem foldl_hostTransact_engineView (txs : List Tx) (hbusy : s.status.busy = true) :
    (txs.foldl (fun u tx => hostTransact tx u) s).engineView = s.engineView := by
  induction txs generalizing s with
  | nil => rfl
  | cons tx txs ih =>
    have hview := hostTransact_engineView tx hbusy
    have hstill : (hostTransact tx s).status.busy = true := (congrArg (·.status.busy) hview).trans hbusy
    exact (ih hstill).trans hview

/-- Settles O53, by induction on the list of transactions: the engine's view of the block stays the same. -/
theorem busyWindowKeepsTheOperands : Obligations.BusyWindowKeepsTheOperands := by
  unfold Obligations.BusyWindowKeepsTheOperands
  rintro txs s t hbusy rfl
  have hview := foldl_hostTransact_engineView txs hbusy
  exact ⟨(congrArg (·.status.busy) hview).trans hbusy, congrArg (·.cmdlatch) hview, congrArg (·.params) hview,
    congrArg (·.pbuf) hview, congrArg (·.fbuf) hview, congrArg (·.acc) hview, congrArg (·.csum) hview,
    congrArg (·.flen) hview, congrArg (·.cfg) hview⟩

/-! ### Reads (R60) -/

/-- Settles O54: a listed read is a protocol error with an answer, any other read is an answer alone. -/
theorem readsHaveNoSideEffect : Obligations.ReadsHaveNoSideEffect := by
  unfold Obligations.ReadsHaveNoSideEffect
  intro tx s hr
  by_cases hb : tx.Breaks s
  · obtain ⟨r, h⟩ := hostTransact_of_breaks_read hb hr
    exact ⟨r, s.fresh + 1, Nat.le_succ _, .inr h⟩
  · obtain ⟨r, n, hn, h⟩ := hostTransact_of_not_breaks_read hb hr
    exact ⟨r, n, hn, .inl h⟩

end Sys2Proof.Machine
end

section
/-! Proofs of the family of spec/20_memory.md: what a read returns, while busy and while idle (R38, R53, R59, U2). -/

namespace Sys2Proof.Machine

variable {s : State} {r : Reg} {sel : BufSel} {i : Nat} {b : Byte}

/-! ### Bytes of a buffer (R50, R53) -/

/-- The window of `PBUF` starts at `0x20000` and is looked up first. -/
theorem byteAt_pbuf {c : Config} (hi : i < c.pbufSize) (hwindow : i < 0x20000) :
    byteAt c (bufOffset .pbuf i) = some (.pbuf, i) := by
  have hoff : (bufOffset .pbuf i).toNat = 0x20000 + i := by
    simp only [bufOffset, BitVec.toNat_ofNat]
    omega
  rw [byteAt, hoff, if_pos ⟨by omega, by omega⟩, Nat.add_sub_cancel_left]

/-- The window of `FBUF` starts at `0x40000`, where the largest `PBUF` ends (R7). -/
theorem byteAt_fbuf {c : Config} (hc : c.Legal) (hi : i < c.fbufSize) :
    byteAt c (bufOffset .fbuf i) = some (.fbuf, i) := by
  obtain ⟨-, hfbuf, -, hpbuf⟩ := hc
  have hoff : (bufOffset .fbuf i).toNat = 0x40000 + i := by
    simp only [bufOffset, BitVec.toNat_ofNat]
    omega
  rw [byteAt, hoff, if_neg (by omega), if_pos ⟨by omega, by omega⟩, Nat.add_sub_cancel_left]

/-- A legal `PBUF` has no byte past its window (R7, R50). -/
theorem byteAt_pbuf_of_legal {c : Config} (hc : c.Legal) (hi : i < c.pbufSize) :
    byteAt c (bufOffset .pbuf i) = some (.pbuf, i) := by
  obtain ⟨-, -, -, hpbuf⟩ := hc
  exact byteAt_pbuf hi (by omega)

/-- A read of a written byte answers with it and draws nothing. -/
theorem replyByte_of_get? {m : Memory} (s : State) (h : m.get? i = some b) :
    replyByte s m i = s.pushReply (.byte b) := by
  rw [replyByte, Memory.readByte_of_get? h]
  rfl

/-- A read of a written byte answers with it but where R59 leaves it unspecified. -/
theorem hostTransact_read8_of_get? (hat : byteAt s.cfg (bufOffset sel i) = some (sel, i))
    (hspec : sel = .fbuf → s.status.busy = false) (h : (s.buf sel).get? i = some b) :
    hostTransact (.read8 (bufOffset sel i)) s = s.pushReply (.byte b) := by
  rw [hostTransact_read8_of_specified hat hspec, replyByte_of_get? s h]

namespace Memory

/-- A write of one byte stores it at its index and keeps every other. -/
theorem get?_write_byte (m : Memory) (i : Nat) (b : Byte) (j : Nat) :
    (m.write i [b]).get? j = if j = i then some b else m.get? j := by
  rw [get?_write, List.length_singleton]
  split
  · have hj : j = i := by omega
    simp [hj]
  · rw [if_neg (by omega)]

end Memory

/-- A byte written while idle is stored at its index alone, and a read of it answers with it. -/
theorem read8_write8_same (b : Byte) (hidle : s.status.busy = false)
    (hat : byteAt s.cfg (bufOffset sel i) = some (sel, i)) :
    ∃ m, hostTransact (.write8 (bufOffset sel i) b) s = s.setBuf sel m ∧
      (∀ j, m.get? j = if j = i then some b else (s.buf sel).get? j) ∧
      hostTransact (.read8 (bufOffset sel i)) (s.setBuf sel m) = (s.setBuf sel m).pushReply (.byte b) := by
  have hget := (s.buf sel).get?_write_byte i b
  refine ⟨(s.buf sel).write i [b], hostTransact_write8_of_idle b hidle hat, hget, ?_⟩
  refine hostTransact_read8_of_get? (by rwa [State.setBuf_cfg]) (fun _ => by rwa [State.setBuf_status]) ?_
  rw [State.setBuf_buf, hget, if_pos rfl]

/-- Settles O58: each offset belongs to one byte of one buffer, which a write stores and a read returns. -/
theorem bufferBytesReadBack : Obligations.BufferBytesReadBack := by
  unfold Obligations.BufferBytesReadBack
  refine fun s i b hc hidle => ⟨fun hi => ?pbuf, fun hi => ?fbuf⟩
  case pbuf => exact read8_write8_same b hidle (byteAt_pbuf_of_legal hc hi)
  case fbuf => exact read8_write8_same b hidle (byteAt_fbuf hc hi)

/-! ### Registers (R21, R38, R59) -/

/-- The registers whose value R59 leaves unspecified while busy. -/
def Reg.results : List Reg := [.acc, .csum, .flen]

theorem results_unspecified : ∀ r ∈ Reg.results, busyUnspecified r = true := by decide

theorem results_offsets : [0x38#19, 0x3C#19, 0x40#19] = Reg.results.map Reg.offset := rfl

theorem params_specified : ∀ r ∈ Reg.params, busyUnspecified r = false := by decide

/-- A read of a parameter register answers with its value at all times. -/
theorem hostTransact_read32_param (s : State) (hr : r ∈ Reg.params) :
    hostTransact (.read32 r.offset) s = s.pushReply (.word (readReg s r)) :=
  hostTransact_read32_of_specified (by rw [params_specified r hr, Bool.and_false])

/-- The value of a parameter register does not depend on `STATUS`. -/
theorem readReg_setStatus_param (s : State) (x : Status) (hr : r ∈ Reg.params) :
    readReg (s.setStatus x) r = readReg s r := by
  have hparam := params_width r hr
  cases r
  case cmd | status | acc | csum | flen => cases hparam
  all_goals rfl

/-- The upper half of an address as a number (R22). -/
theorem macHi_eq_ofNat (m : Mac) :
    (m.extractLsb' 32 16).setWidth 32 = BitVec.ofNat 32 (m.toNat / 2 ^ 32) := by
  apply BitVec.eq_of_toNat_eq
  simp only [BitVec.toNat_setWidth, BitVec.extractLsb'_toNat, BitVec.toNat_ofNat, Nat.shiftRight_eq_div_pow]
  have := m.isLt
  omega

/-- The lower half of an address as a number (R22). -/
theorem macLo_eq_ofNat (m : Mac) : m.extractLsb' 0 32 = BitVec.ofNat 32 (m.toNat % 2 ^ 32) := by
  apply BitVec.eq_of_toNat_eq
  simp

/-- The parameter registers at their offsets, with their values as numbers (R21 to R28). -/
theorem params_values (s : State) :
    [(0x08#19, BitVec.ofNat 32 (s.params.dmac.toNat / 2 ^ 32)),
      (0x0C#19, BitVec.ofNat 32 (s.params.dmac.toNat % 2 ^ 32)),
      (0x10#19, BitVec.ofNat 32 (s.params.smac.toNat / 2 ^ 32)),
      (0x14#19, BitVec.ofNat 32 (s.params.smac.toNat % 2 ^ 32)),
      (0x18#19, s.params.sip), (0x1C#19, s.params.dip),
      (0x20#19, BitVec.ofNat 32 s.params.sport.toNat), (0x24#19, BitVec.ofNat 32 s.params.dport.toNat),
      (0x28#19, s.params.plen), (0x2C#19, s.params.clen), (0x30#19, s.params.rbase),
      (0x34#19, s.params.rlen)] = Reg.params.map fun r => (r.offset, readReg s r) := by
  simp only [← macHi_eq_ofNat, ← macLo_eq_ofNat, BitVec.ofNat_toNat]
  rfl

/-- The registers that are no parameters, in the order of their indices. -/
def Reg.nonParams : List Reg := [.cmd, .status, .acc, .csum, .flen]

/-- The other registers at their offsets, with their values (R29 to R33). -/
theorem nonParams_values (s : State) :
    [(0x00#19, s.cmdlatch), (0x04#19, s.status.word), (0x38#19, s.acc),
      (0x3C#19, BitVec.ofNat 32 s.csum.toNat), (0x40#19, s.flen)] =
      Reg.nonParams.map fun r => (r.offset, readReg s r) := by
  simp only [BitVec.ofNat_toNat]
  rfl

/-- Settles O55: the offsets are those of the registers and of the buffers' bytes; the unspecified values of R59 are
free draws, and every other read answers with what is stored. -/
theorem busyReads : Obligations.BusyReads := by
  unfold Obligations.BusyReads
  refine ⟨fun s hbusy => ⟨?status, ?latch, ?param, ?pbufBusy, ?result, ?fbufBusy⟩,
    fun s hidle => ⟨?nonParam, fun hc i b => ⟨?pbufIdle, ?fbufIdle⟩⟩, ?paramValue⟩
  case status => exact hostTransact_read32_of_specified (r := .status) (Bool.and_false _)
  case latch => exact hostTransact_read32_of_specified (r := .cmd) (Bool.and_false _)
  case param =>
    rw [params_offsets, List.forall_mem_map]
    intro r hr
    refine ⟨readReg s r, hostTransact_read32_param s hr, ?_⟩
    rw [← readReg_setStatus_param s s.doneStatus hr]
    exact hostTransact_read32_param (s.setStatus s.doneStatus) hr
  case pbufBusy =>
    exact fun i b hi hwindow hget => hostTransact_read8_of_get? (byteAt_pbuf hi hwindow) nofun hget
  case result =>
    rw [results_offsets, List.forall_mem_map]
    exact fun r hr => hostTransact_read32_of_unspecified (by rw [hbusy, results_unspecified r hr, Bool.and_true])
  case fbufBusy =>
    exact fun hc i hi => hostTransact_read8_fbuf_of_busy (byteAt_fbuf hc hi) hbusy
  case nonParam =>
    rw [nonParams_values, List.forall_mem_map]
    exact fun r _ => hostTransact_read32_of_idle hidle
  case pbufIdle =>
    exact fun hi hget => hostTransact_read8_of_get? (byteAt_pbuf_of_legal hc hi) nofun hget
  case fbufIdle =>
    exact fun hi hget => hostTransact_read8_of_get? (byteAt_fbuf hc hi) (fun _ => hidle) hget
  case paramValue =>
    intro s
    rw [params_values, List.forall_mem_map]
    exact fun r hr => hostTransact_read32_param s hr

end Sys2Proof.Machine
end

section
/-! Proofs of the family of spec/30_encoding.md: the command words (R70, R71, R72, R87, R162). -/

namespace Sys2Proof

variable {w : Word} {i j : Instr} {opc : Byte}

/-! ### The fields of a command word (R70, R72) -/

theorem opcodeOf_append (operand : BitVec 24) (opc : Byte) : opcodeOf (operand ++ opc) = opc :=
  BitVec.extractLsb'_append_eq_right

theorem opcodeOf_toNat (w : Word) : (opcodeOf w).toNat = w.toNat % 256 := by
  simp [opcodeOf]

theorem operand_append_opcodeOf (w : Word) : w.extractLsb' 8 24 ++ opcodeOf w = w :=
  (BitVec.extractLsb'_append_extractLsb'_eq_extractLsb' rfl).trans BitVec.extractLsb'_eq_self

/-- The operand bits of a `CI` word: those that must be 0, then `imm16`. -/
theorem stray_append_immOf (w : Word) : w.extractLsb' 24 8 ++ immOf w = w.extractLsb' 8 24 :=
  BitVec.extractLsb'_append_extractLsb'_eq_extractLsb' (show 24 = 8 + 16 from rfl)

theorem selBit_selOf (w : Word) : selBit (selOf w) = w.extractLsb' 8 1 := by
  rw [selOf, BitVec.getLsbD_eq_extractLsb']
  rcases BitVec.eq_zero_or_eq_one (w.extractLsb' 8 1) with h | h <;> rw [h] <;> rfl

/-- The operand bits of a `CS` word: those that must be 0, then `sel`. -/
theorem stray_append_selBit (w : Word) : w.extractLsb' 9 23 ++ selBit (selOf w) = w.extractLsb' 8 24 := by
  rw [selBit_selOf]
  exact BitVec.extractLsb'_append_extractLsb'_eq_extractLsb' (show 9 = 8 + 1 from rfl)

/-! ### Decoding an encoded command (R162) -/

theorem decodeCI_append (imm16 : Half) (opc : Byte) (f : Half → Instr) :
    decodeCI (0x00#8 ++ imm16 ++ opc) f = .ok (f imm16) := by
  have hstray : (0x00#8 ++ imm16 ++ opc).extractLsb' 24 8 = 0x00#8 :=
    (BitVec.extractLsb'_append_eq_of_le (by decide)).trans BitVec.extractLsb'_append_eq_left
  have himm : immOf (0x00#8 ++ imm16 ++ opc) = imm16 :=
    (BitVec.extractLsb'_append_eq_of_le (by decide)).trans BitVec.extractLsb'_append_eq_right
  rw [decodeCI, if_pos hstray, himm]

theorem decode_encode (i : Instr) : decode (encode i) = .ok i := by
  cases i with
  | aadd imm16 =>
    have hopc : opcodeOf (encode (.aadd imm16)) = 0x02#8 := opcodeOf_append (0x00#8 ++ imm16) 0x02#8
    have hci : decode (encode (.aadd imm16)) = decodeCI (encode (.aadd imm16)) .aadd := by
      rw [decode, hopc]; rfl
    exact hci.trans (decodeCI_append imm16 0x02#8 .aadd)
  | asum sel | cksum sel => cases sel <;> rfl
  | nop | aclr | afin | udpcs | build => rfl

/-- Settles O2, by the command: `AADD` reads its operand back from the field that holds it, and every other command has
finitely many words, which decode by evaluation. -/
theorem decodeOfEncodeIsTheCommand : Obligations.DecodeOfEncodeIsTheCommand := by
  unfold Obligations.DecodeOfEncodeIsTheCommand
  exact decode_encode

/-- Settles O1: a sample word of a command is its encoding; a reserved opcode and the stray bits of each sub-format
are refused. -/
theorem sampleWordsDecode : Obligations.SampleWordsDecode := by
  unfold Obligations.SampleWordsDecode
  exact ⟨decode_encode .nop, decode_encode .aclr, decode_encode (.aadd 0x0020#16), decode_encode (.aadd 0xFFFF#16),
    decode_encode (.asum .pbuf), decode_encode (.asum .fbuf), decode_encode .afin, decode_encode (.cksum .pbuf),
    decode_encode (.cksum .fbuf), decode_encode .udpcs, decode_encode .build,
    by decide, by decide, by decide, by decide⟩

/-! ### The decoder accepts nothing but encoded commands (R87, R162) -/

theorem eq_encode_of_decodeC0 (h : decodeC0 w j = .ok i) (hopc : opcodeOf w = opc) (hj : encode j = 0#24 ++ opc) :
    w = encode i := by
  unfold decodeC0 at h
  split at h <;> cases h
  rw [hj, ← hopc, ← ‹w.extractLsb' 8 24 = 0#24›, operand_append_opcodeOf]

theorem eq_encode_of_decodeCI {f : Half → Instr} (h : decodeCI w f = .ok i) (hopc : opcodeOf w = opc)
    (hf : ∀ imm16, encode (f imm16) = 0x00#8 ++ imm16 ++ opc) : w = encode i := by
  unfold decodeCI at h
  split at h <;> cases h
  rw [hf, ← hopc, ← ‹w.extractLsb' 24 8 = 0#8›, stray_append_immOf, operand_append_opcodeOf]

theorem eq_encode_of_decodeCS {f : BufSel → Instr} (h : decodeCS w f = .ok i) (hopc : opcodeOf w = opc)
    (hf : ∀ sel, encode (f sel) = 0#23 ++ selBit sel ++ opc) : w = encode i := by
  unfold decodeCS at h
  split at h <;> cases h
  rw [hf, ← hopc, ← ‹w.extractLsb' 9 23 = 0#23›, stray_append_selBit, operand_append_opcodeOf]

theorem eq_encode_of_decode (h : decode w = .ok i) : w = encode i := by
  unfold decode at h
  split_ifs at h with h0 h1 h2 h3 h4 h5 h6 h7
  · exact eq_encode_of_decodeC0 h h0 rfl
  · exact eq_encode_of_decodeC0 h h1 rfl
  · exact eq_encode_of_decodeCI h h2 fun _ => rfl
  · exact eq_encode_of_decodeCS h h3 fun _ => rfl
  · exact eq_encode_of_decodeC0 h h4 rfl
  · exact eq_encode_of_decodeCS h h5 fun _ => rfl
  · exact eq_encode_of_decodeC0 h h6 rfl
  · exact eq_encode_of_decodeC0 h h7 rfl

/-! ### The legal words (R70, R71, R87) -/

/-- The mask of the bits from `k` up finds no bit exactly when the field of those bits is 0. -/
theorem and_highMask_eq_zero_iff {m k n : Nat} (x : BitVec m) (hm : k + n = m) :
    x &&& (BitVec.allOnes m <<< k) = 0#m ↔ x.extractLsb' k n = 0#n := by
  constructor
  · intro h
    apply BitVec.eq_of_getLsbD_eq
    intro b hb
    have hbit := congrArg (BitVec.getLsbD · (k + b)) h
    have : k + b < m := by omega
    simpa [hb, this] using hbit
  · intro h
    apply BitVec.eq_of_getLsbD_eq
    intro b hb
    obtain hlow | ⟨c, rfl⟩ := (Nat.lt_or_ge b k).imp_right Nat.exists_eq_add_of_le
    · simp [hlow]
    · have : c < n := by omega
      have hbit : x.getLsbD (k + c) = false := by simpa [this] using congrArg (BitVec.getLsbD · c) h
      simp [hbit]

/-- A test that accepts under `c` is the test of R87 for the must-be-zero bits that `c` speaks of. -/
theorem isOk_ite {c : Prop} [Decidable c] {x : Word} (h : x = 0#32 ↔ c) (e : Illegal) :
    (if c then Except.ok i else .error e).isOk = (x == 0#32) := by
  rw [Bool.eq_iff_iff, beq_iff_eq, h]
  split <;> simp [*, Except.isOk, Except.toBool]

theorem decodeC0_isOk (w : Word) (j : Instr) : (decodeC0 w j).isOk = (w &&& SubFormat.c0.mustBeZero == 0#32) :=
  isOk_ite (and_highMask_eq_zero_iff (k := 8) w rfl) _

theorem decodeCI_isOk (w : Word) (f : Half → Instr) :
    (decodeCI w f).isOk = (w &&& SubFormat.ci.mustBeZero == 0#32) :=
  isOk_ite (and_highMask_eq_zero_iff (k := 24) w rfl) _

theorem decodeCS_isOk (w : Word) (f : BufSel → Instr) :
    (decodeCS w f).isOk = (w &&& SubFormat.cs.mustBeZero == 0#32) :=
  isOk_ite (and_highMask_eq_zero_iff (k := 9) w rfl) _

theorem subFormatOf_of_ge {n : Nat} (h : 8 ≤ n) : subFormatOf n = none := by
  unfold subFormatOf
  split
  case h_9 => rfl
  all_goals omega

/-- The decoder accepts exactly the legal words: opcode by opcode, its test is the one of the sub-format (R87). -/
theorem legalWord_eq_isOk (w : Word) : legalWord w = (decode w).isOk := by
  unfold legalWord decode
  rw [← opcodeOf_toNat]
  split_ifs with h0 h1 h2 h3 h4 h5 h6 h7
  · rw [h0]; exact (decodeC0_isOk w _).symm
  · rw [h1]; exact (decodeC0_isOk w _).symm
  · rw [h2]; exact (decodeCI_isOk w _).symm
  · rw [h3]; exact (decodeCS_isOk w _).symm
  · rw [h4]; exact (decodeC0_isOk w _).symm
  · rw [h5]; exact (decodeCS_isOk w _).symm
  · rw [h6]; exact (decodeC0_isOk w _).symm
  · rw [h7]; exact (decodeC0_isOk w _).symm
  · rw [subFormatOf_of_ge (by bv_omega)]; rfl

theorem isOk_iff_exists (x : Except Illegal Instr) : x.isOk = true ↔ ∃ i, x = .ok i := by
  cases x <;> simp [Except.isOk, Except.toBool]

/-! ### The rows of the opcode table (R71) -/

/-- The word of a command belongs to its row. -/
theorem row_accepts_encode (i : Instr) : i.row.accepts (encode i) = true := by
  cases i with
  | nop => exact Laws.EncodeInRow.nop
  | aclr => exact Laws.EncodeInRow.aclr
  | aadd imm16 => exact Laws.EncodeInRow.aadd imm16
  | asum sel => exact Laws.EncodeInRow.asum sel
  | afin => exact Laws.EncodeInRow.afin
  | cksum sel => exact Laws.EncodeInRow.cksum sel
  | udpcs => exact Laws.EncodeInRow.udpcs
  | build => exact Laws.EncodeInRow.build

/-- The rows of the opcode table, by opcode. -/
def opcodeRows : List OpcodeRow :=
  [Instr.nop.row, Instr.aclr.row, (Instr.aadd 0#16).row, (Instr.asum .pbuf).row, Instr.afin.row,
    (Instr.cksum .pbuf).row, Instr.udpcs.row, Instr.build.row]

theorem row_mem_opcodeRows (i : Instr) : i.row ∈ opcodeRows := by
  cases i <;> simp [opcodeRows, Instr.row]

/-- The mask of every row covers the opcode. -/
theorem opcodeRows_mask : ∀ r ∈ opcodeRows, opcodeOf r.mask = 0xFF#8 := by decide

theorem opcodeRows_inj :
    ∀ r ∈ opcodeRows, ∀ r' ∈ opcodeRows, opcodeOf r.pattern = opcodeOf r'.pattern → r = r' := by decide

theorem opcodeOf_and (v w : Word) : opcodeOf (v &&& w) = opcodeOf v &&& opcodeOf w := BitVec.extractLsb'_and

/-- A word of a row carries the row's opcode. -/
theorem opcodeOf_of_accepts (h : i.row.accepts w = true) : opcodeOf w = opcodeOf i.row.pattern := by
  rw [← beq_iff_eq.1 h, opcodeOf_and, opcodeRows_mask _ (row_mem_opcodeRows i)]
  exact BitVec.and_allOnes.symm

/-- No word belongs to two rows. -/
theorem row_eq_of_accepts (hi : i.row.accepts w = true) (hj : j.row.accepts w = true) : j.row = i.row :=
  opcodeRows_inj _ (row_mem_opcodeRows j) _ (row_mem_opcodeRows i)
    ((opcodeOf_of_accepts hj).symm.trans (opcodeOf_of_accepts hi))

/-- Settles O4: each sub-decoder tests the very bits of its sub-format's mask, an accepted word is the word of its
command, and the rows differ in their opcodes. -/
theorem legalWordsAreTheTableRows : Obligations.LegalWordsAreTheTableRows := by
  unfold Obligations.LegalWordsAreTheTableRows
  refine fun w => ⟨?legal, fun i h => ?row⟩
  case legal => rw [legalWord_eq_isOk, isOk_iff_exists]
  case row =>
    have hrow : i.row.accepts w = true := eq_encode_of_decode h ▸ row_accepts_encode i
    exact ⟨hrow, fun j => row_eq_of_accepts hrow⟩

end Sys2Proof
end

section
/-! Proofs of the family of spec/30_encoding.md: the bytes of a built frame (R73, R75, R80, R81) and the IPv4 header
checksum (R77). -/

namespace Sys2Proof.Machine

variable {s : State}

/-! ### Bytes of a field (R14, R82) -/

/-- The first byte of `BE16` of a number (R14). -/
theorem be16_hi_ofNat (m : Nat) : (BitVec.ofNat 16 m).extractLsb' 8 8 = BitVec.ofNat 8 (m / 256) := by
  apply BitVec.eq_of_toNat_eq
  simp only [BitVec.extractLsb'_toNat, BitVec.toNat_ofNat, Nat.shiftRight_eq_div_pow]
  omega

/-- The second byte of `BE16` of a number (R14). -/
theorem be16_lo_ofNat (m : Nat) : (BitVec.ofNat 16 m).extractLsb' 0 8 = BitVec.ofNat 8 (m % 256) := by
  apply BitVec.eq_of_toNat_eq
  simp only [BitVec.extractLsb'_toNat, BitVec.toNat_ofNat, Nat.shiftRight_zero]
  omega

/-! ### The parts of the frame (R73) -/

/-- A read returns the stored byte at every index that has one, whatever the rest of the range holds (R13, U1). -/
theorem Memory.read_getElem?_of_get? {m : Memory} {a n k : Nat} {b : Byte} (hk : k < n) (h : m.get? (a + k) = some b)
    (fresh : Nat) : (m.read fresh a n).1[k]? = some b := by
  induction n generalizing a k fresh with
  | zero => exact absurd hk k.not_lt_zero
  | succ n ih =>
    cases k with
    | zero => exact congrArg (fun x => some x.1) (readByte_of_get? h fresh)
    | succ k =>
      rw [Nat.add_comm k, ← Nat.add_assoc] at h
      exact ih (Nat.lt_of_succ_lt_succ hk) h _

/-- The 42 bytes before the payload (R73). -/
def State.headers (s : State) : List Byte :=
  ethHeader s.params ++ ipHeader s.params s.payloadLen (ipChecksum s.params s.payloadLen) ++
    udpHeader s.params s.payloadLen s.built.csum

theorem headers_length (s : State) : s.headers.length = 42 := rfl

theorem frame_eq (s : State) : s.frame = s.headers ++ s.buildPayload.1 := rfl

/-- After a `BUILD`, `FBUF` starts with the frame (R144). -/
theorem built_get?_frame {k : Nat} (hk : k < 42 + s.payloadLen) : s.built.fbuf.get? k = s.frame[k]? := by
  have hlen : k < 0 + s.frame.length := by rwa [Nat.zero_add, State.frame_length]
  exact (Memory.get?_write s.fbuf 0 s.frame k).trans (if_pos ⟨k.zero_le, hlen⟩)

theorem built_get?_headers {k : Nat} (hk : k < 42) : s.built.fbuf.get? k = s.headers[k]? := by
  rw [built_get?_frame (Nat.lt_add_right _ hk), frame_eq, List.getElem?_append_left hk]

theorem built_get?_payload {k : Nat} (hk : k < s.payloadLen) :
    s.built.fbuf.get? (42 + k) = s.buildPayload.1[k]? := by
  rw [built_get?_frame (Nat.add_lt_add_left hk 42), frame_eq, List.getElem?_append_right (Nat.le_add_right 42 k),
    headers_length, Nat.add_sub_cancel_left]

/-- Settles O30: a `BUILD` without error leaves the frame; below 42 the bytes are those of the three headers, from 42 up
those that a read of `PBUF` returns. -/
theorem buildLaysOutTheFrame : Obligations.BuildLaysOutTheFrame := by
  unfold Obligations.BuildLaysOutTheFrame
  rintro s t n rfl h hok
  obtain rfl | ⟨code, rfl⟩ := exec_build_cases h
  case inr => cases hok
  have header {k : Nat} (hk : k < 42) := built_get?_headers (s := s) hk
  refine ⟨?dmac, ?smac, header (by decide), header (by decide), header (by decide), header (by decide),
    ?ipLenHi, ?ipLenLo, ?zeros, header (by decide), header (by decide), header (by decide), header (by decide),
    ?sip, ?dip, header (by decide), header (by decide), header (by decide), header (by decide),
    ?udpLenHi, ?udpLenLo, header (by decide), header (by decide), ?payload⟩
  case dmac | smac | zeros | sip | dip =>
    intro k hk
    rw [header (by omega)]
    interval_cases k <;> rfl
  case ipLenHi | udpLenHi =>
    rw [header (by decide), ← be16_hi_ofNat]
    rfl
  case ipLenLo | udpLenLo =>
    rw [header (by decide), ← be16_lo_ofNat]
    rfl
  case payload =>
    intro k b hk hb
    rw [built_get?_payload hk]
    exact Memory.read_getElem?_of_get? (a := 0) hk (by rwa [Nat.zero_add]) _

/-! ### Sums that do not wrap (R15, R17, R100) -/

theorem beWord_toNat (b0 b1 : Byte) : (beWord b0 b1).toNat = b0.toNat * 256 + b1.toNat := by
  rw [beWord, BitVec.toNat_append, ← Nat.shiftLeft_add_eq_or_of_lt b1.isLt, Nat.shiftLeft_eq]

theorem accAdd_toNat_of_lt {a : Word} {w : Half} (h : a.toNat + w.toNat < 2 ^ 32) :
    (accAdd a w).toNat = a.toNat + w.toNat := by
  rw [accAdd, BitVec.toNat_ofNat]
  omega

/-- A sum that stays below `2^32` is the true sum of the terms. -/
theorem sumBytes_toNat_of_lt {a : Word} {bs : List Byte} (h : a.toNat + naturalSum bs < 2 ^ 32) :
    (sumBytes a bs).toNat = a.toNat + naturalSum bs := by
  induction a, bs using sumBytes.induct with
  | case1 a => rfl
  | case2 a b =>
    have hterm : naturalSum [b] = (beWord b 0x00#8).toNat := by
      rw [naturalSum, beWord_toNat, BitVec.toNat_zero, Nat.add_zero]
    rw [hterm] at h ⊢
    exact accAdd_toNat_of_lt h
  | case3 a b0 b1 bs ih =>
    have hterm : naturalSum (b0 :: b1 :: bs) = (beWord b0 b1).toNat + naturalSum bs := by
      rw [naturalSum, beWord_toNat]
    rw [hterm, ← Nat.add_assoc] at h ⊢
    have hacc : (accAdd a (beWord b0 b1)).toNat = a.toNat + (beWord b0 b1).toNat :=
      accAdd_toNat_of_lt (Nat.lt_of_le_of_lt (Nat.le_add_right _ _) h)
    rw [← hacc] at h ⊢
    exact ih h

theorem beWord_be16 (v : Half) : beWord (v.extractLsb' 8 8) (v.extractLsb' 0 8) = v :=
  (BitVec.extractLsb'_append_extractLsb'_eq_extractLsb' rfl).trans BitVec.extractLsb'_eq_self

theorem naturalSum_be16_append (v : Half) (bs : List Byte) :
    naturalSum (be16 v ++ bs) = v.toNat + naturalSum bs := by
  have hterm := beWord_toNat (v.extractLsb' 8 8) (v.extractLsb' 0 8)
  rw [beWord_be16] at hterm
  exact congrArg (· + naturalSum bs) hterm.symm

theorem hiHalf_toNat (v : Word) : (hiHalf v).toNat = v.toNat / 65536 := by
  rw [hiHalf, BitVec.extractLsb'_toNat, Nat.shiftRight_eq_div_pow]
  omega

theorem loHalf_toNat (v : Word) : (loHalf v).toNat = v.toNat % 65536 := by
  simp [loHalf]

/-- A part of a part of a vector is a part of the vector. -/
theorem extractLsb'_extractLsb' {m : Nat} (x : BitVec m) {a b k n : Nat} (h : b + k ≤ n) :
    (x.extractLsb' a n).extractLsb' b k = x.extractLsb' (a + b) k := by
  apply BitVec.eq_of_getLsbD_eq
  intro i hi
  have : b + i < n := by omega
  simp [hi, this, Nat.add_assoc]

theorem be32_eq_halves (v : Word) : be32 v = be16 (hiHalf v) ++ be16 (loHalf v) := by
  simp [be32, be16, hiHalf, loHalf, extractLsb'_extractLsb']

theorem naturalSum_be32_append (v : Word) (bs : List Byte) :
    naturalSum (be32 v ++ bs) = v.toNat / 65536 + v.toNat % 65536 + naturalSum bs := by
  rw [be32_eq_halves, List.append_assoc, naturalSum_be16_append, naturalSum_be16_append, hiHalf_toNat, loHalf_toNat,
    Nat.add_assoc]

/-! ### The fold (R16, R103) -/

theorem foldPass_of_lt {a : Nat} (h : a < 65536) : foldPass a = a := by
  rw [foldPass]
  omega

theorem foldLoop_eq_iterate (passes a : Nat) : foldLoop passes a = foldPass^[passes] a := by
  induction passes generalizing a with
  | zero => rfl
  | succ passes ih =>
    rw [foldLoop, Function.iterate_succ_apply]
    split
    case isTrue hsmall =>
      have hfix : foldPass a = a := foldPass_of_lt (by omega)
      rw [hfix, Function.iterate_fixed hfix]
    case isFalse => exact ih (foldPass a)

/-- Two passes fold a 32-bit value (R104). -/
theorem foldPass_foldPass_lt {a : Nat} (h : a < 2 ^ 32) : foldPass (foldPass a) < 65536 := by
  simp only [foldPass]
  omega

theorem fold_toNat (a : Word) : (fold a).toNat = foldPass (foldPass a.toNat) := by
  have hlt := foldPass_foldPass_lt a.isLt
  have hloop : foldLoop 4 a.toNat = foldPass (foldPass a.toNat) := by
    rw [foldLoop_eq_iterate]
    exact (congrArg foldPass (foldPass_of_lt hlt)).trans (foldPass_of_lt hlt)
  rw [fold, hloop, BitVec.toNat_ofNat, Nat.mod_eq_of_lt hlt]

theorem foldPass_ne_zero {a : Nat} (h : a ≠ 0) : foldPass a ≠ 0 := by
  rw [foldPass]
  omega

/-- The checksum of a sum that is not zero is not `0xFFFF` (R103). -/
theorem finish_ne_ffff {a : Word} (h : a.toNat ≠ 0) : finish a ≠ 0xFFFF#16 := by
  have hfold : (fold a).toNat ≠ 0 := fold_toNat a ▸ foldPass_ne_zero (foldPass_ne_zero h)
  intro heq
  rw [finish, cpl16] at heq
  bv_omega

/-! ### The IPv4 header checksum (R77) -/

/-- `ipsum` of R77. -/
def ipSum (p : ParamRegs) (n : Nat) : Nat :=
  0x4500 + (28 + n) + 0xFF11 + p.sip.toNat / 65536 + p.sip.toNat % 65536 + p.dip.toNat / 65536 + p.dip.toNat % 65536

theorem ipSum_lt {n : Nat} (hn : n ≤ 65507) (p : ParamRegs) : ipSum p n < 2 ^ 32 := by
  rw [ipSum]
  omega

/-- The IPv4 header as fields of 16 and 32 bits (R75). -/
theorem ipHeader_fields (p : ParamRegs) (n : Nat) (ck : Half) :
    ipHeader p n ck = be16 0x4500#16 ++ (be16 (BitVec.ofNat 16 (28 + n)) ++ (be16 0#16 ++ (be16 0#16 ++
      (be16 0xFF11#16 ++ (be16 ck ++ (be32 p.sip ++ (be32 p.dip ++ []))))))) := rfl

theorem naturalSum_ipHeader {n : Nat} (hn : n ≤ 65507) (p : ParamRegs) :
    naturalSum (ipHeader p n 0#16) = ipSum p n := by
  have hlen : (BitVec.ofNat 16 (28 + n)).toNat = 28 + n := Nat.mod_eq_of_lt (by omega)
  simp only [ipHeader_fields, naturalSum_be16_append, naturalSum_be32_append, hlen, ipSum, naturalSum,
    BitVec.toNat_ofNat]
  omega

theorem sumBytes_ipHeader {n : Nat} (hn : n ≤ 65507) (p : ParamRegs) :
    sumBytes 0#32 (ipHeader p n 0#16) = BitVec.ofNat 32 (ipSum p n) := by
  have hsum := naturalSum_ipHeader hn p
  have hlt := ipSum_lt hn p
  apply BitVec.eq_of_toNat_eq
  rw [BitVec.toNat_ofNat, Nat.mod_eq_of_lt hlt, ← hsum, sumBytes_toNat_of_lt (by simpa [hsum] using hlt)]
  exact Nat.zero_add _

/-- Settles O31: the terms of the header add up to `ipsum`, which does not wrap and is not zero. -/
theorem ipChecksumClosedForm : Obligations.IpChecksumClosedForm := by
  unfold Obligations.IpChecksumClosedForm
  intro p n hn
  have hclosed : ipChecksum p n = finish (BitVec.ofNat 32 (ipSum p n)) := congrArg finish (sumBytes_ipHeader hn p)
  have hpos : (BitVec.ofNat 32 (ipSum p n)).toNat ≠ 0 := by
    rw [BitVec.toNat_ofNat, Nat.mod_eq_of_lt (ipSum_lt hn p), ipSum]
    omega
  exact ⟨rfl, hclosed, hclosed ▸ finish_ne_ffff hpos⟩

end Sys2Proof.Machine
end

section
/-! Proofs of the family of spec/40_accumulator.md: the checksum arithmetic (R15 to R17, R100 to R105, R111, R112). -/

namespace Sys2Proof.Machine

variable {a : Word} {w : Half} {m n : Nat}

/-! ### The value of a finished sum (R102) -/

/-- What a total of terms folds to: 0 for 0, else the number from 1 to `0xFFFF` congruent to it modulo 65535 (R102). -/
def foldedValue (n : Nat) : Nat := if n = 0 then 0 else (n - 1) % 65535 + 1

theorem foldedValue_eq_zero_iff : foldedValue n = 0 ↔ n = 0 := by
  rw [foldedValue]
  split <;> simp_all

theorem foldedValue_mod (n : Nat) : foldedValue n % 65535 = n % 65535 := by
  rw [foldedValue]
  split <;> omega

theorem foldedValue_le (n : Nat) : foldedValue n ≤ 65535 := by
  rw [foldedValue]
  split <;> omega

/-- The value is the only one of its residue that fits 16 bits and is 0 for 0 alone. -/
theorem foldedValue_congr (hmod : m % 65535 = n % 65535) (hzero : m = 0 ↔ n = 0) : foldedValue m = foldedValue n := by
  simp only [foldedValue, hzero]
  split <;> omega

theorem foldedValue_of_lt (h : n < 65536) : foldedValue n = n := by
  rw [foldedValue]
  split <;> omega

theorem foldedValue_eq_ffff_iff : foldedValue n = 0xFFFF ↔ n ≠ 0 ∧ n % 65535 = 0 := by
  rw [foldedValue]
  split <;> omega

/-- Terms may be added to the folded value instead of the total (R110). -/
theorem foldedValue_add_left (m n : Nat) : foldedValue (foldedValue m + n) = foldedValue (m + n) := by
  have hmod := foldedValue_mod m
  have hzero : foldedValue m = 0 ↔ m = 0 := foldedValue_eq_zero_iff
  exact foldedValue_congr (by omega) (by omega)

/-- A pass of `Fold` keeps the value: `65536` is 1 modulo 65535 (R16). -/
theorem foldedValue_foldPass (n : Nat) : foldedValue (foldPass n) = foldedValue n := by
  refine foldedValue_congr ?residue ?zero <;> rw [foldPass] <;> omega

/-! ### `Fold` (R16, R104) -/

theorem fold_toNat_eq_foldedValue (a : Word) : (fold a).toNat = foldedValue a.toNat := by
  rw [fold_toNat, ← foldedValue_of_lt (foldPass_foldPass_lt a.isLt), foldedValue_foldPass, foldedValue_foldPass]

theorem fold_congr {a b : Word} (h : foldedValue a.toNat = foldedValue b.toNat) : fold a = fold b := by
  apply BitVec.eq_of_toNat_eq
  rw [fold_toNat_eq_foldedValue, fold_toNat_eq_foldedValue, h]

/-- The loop of `Fold` on any number, of unbounded width, ends with its value (R101). -/
theorem foldLoop_eq_foldedValue {passes : Nat} (h : n ≤ passes) : foldLoop passes n = foldedValue n := by
  induction passes generalizing n with
  | zero => rw [Nat.le_zero.1 h]; rfl
  | succ passes ih =>
    rw [foldLoop]
    split
    case isTrue hsmall => exact (foldedValue_of_lt (by omega)).symm
    case isFalse hlarge =>
      have hdecr : foldPass n ≤ passes := by rw [foldPass]; omega
      exact (ih hdecr).trans (foldedValue_foldPass n)

theorem foldLoop_two (n : Nat) : foldLoop 2 n = foldPass (foldPass n) := foldLoop_eq_iterate 2 n

/-- After two passes on a 32-bit value a further pass changes nothing (R104). -/
theorem foldLoop_of_two_le {passes : Nat} (h : 2 ≤ passes) (hn : n < 2 ^ 32) : foldLoop passes n = foldLoop 2 n := by
  obtain ⟨more, rfl⟩ := Nat.exists_eq_add_of_le' h
  have hfix : foldPass (foldLoop 2 n) = foldLoop 2 n := foldPass_of_lt (foldLoop_two n ▸ foldPass_foldPass_lt hn)
  rw [foldLoop_eq_iterate, Function.iterate_add_apply, ← foldLoop_eq_iterate 2, Function.iterate_fixed hfix]

/-- Settles O44: two passes of a 32-bit value leave 16 bits, which a further pass keeps; `0x0001FFFF` needs both. -/
theorem foldNeedsAtMostTwoPasses : Obligations.FoldNeedsAtMostTwoPasses := by
  unfold Obligations.FoldNeedsAtMostTwoPasses
  refine ⟨fun a => ⟨?sixteenBits, ?value, fun passes h => foldLoop_of_two_le h a.isLt⟩, 0x0001FFFF#32, by decide⟩
  case sixteenBits => exact foldLoop_two a.toNat ▸ foldPass_foldPass_lt a.isLt
  case value => rw [fold_toNat, foldLoop_two]

/-! ### `AccAdd` (R15, R101) -/

theorem accAdd_toNat (a : Word) (w : Half) :
    (accAdd a w).toNat =
      if a.toNat + w.toNat < 2 ^ 32 then a.toNat + w.toNat else a.toNat + w.toNat - 2 ^ 32 + 1 := by
  have ha := a.isLt
  have hw := w.isLt
  rw [accAdd, BitVec.toNat_ofNat]
  split <;> omega

/-- The carry that comes back in is `2^32`, which is 1 modulo 65535. -/
theorem accAdd_mod (a : Word) (w : Half) : (accAdd a w).toNat % 65535 = (a.toNat + w.toNat) % 65535 := by
  rw [accAdd_toNat]
  split <;> omega

theorem accAdd_toNat_eq_zero_iff : (accAdd a w).toNat = 0 ↔ a.toNat + w.toNat = 0 := by
  rw [accAdd_toNat]
  split <;> omega

theorem eq_zero_of_accAdd_eq_zero (h : accAdd a w = 0#32) : a = 0#32 ∧ w = 0#16 := by
  have hsum : a.toNat + w.toNat = 0 := accAdd_toNat_eq_zero_iff.1 (by rw [h]; rfl)
  exact ⟨BitVec.eq_of_toNat_eq (Nat.eq_zero_of_add_eq_zero_right hsum),
    BitVec.eq_of_toNat_eq (Nat.eq_zero_of_add_eq_zero_left hsum)⟩

/-- The carry does not change what the total of the terms folds to. -/
theorem foldedValue_accAdd_add (a : Word) (w : Half) (n : Nat) :
    foldedValue ((accAdd a w).toNat + n) = foldedValue (a.toNat + (w.toNat + n)) := by
  have hmod := accAdd_mod a w
  have hzero : (accAdd a w).toNat = 0 ↔ a.toNat + w.toNat = 0 := accAdd_toNat_eq_zero_iff
  exact foldedValue_congr (by omega) (by omega)

/-! ### Sums of terms (R100, R101, R102) -/

/-- The true total of terms. -/
def total (ts : List Half) : Nat := (ts.map BitVec.toNat).sum

theorem total_nil : total [] = 0 := rfl

theorem total_cons (w : Half) (ts : List Half) : total (w :: ts) = w.toNat + total ts := List.sum_cons

theorem total_append (ts us : List Half) : total (ts ++ us) = total ts + total us := by
  simp only [total, List.map_append, List.sum_append]

theorem total_perm {ts us : List Half} (h : ts.Perm us) : total ts = total us := (h.map _).sum_eq

theorem total_eq_zero_iff {ts : List Half} : total ts = 0 ↔ ∀ w ∈ ts, w = 0#16 := by
  rw [total, List.sum_eq_zero_iff, List.forall_mem_map]
  exact forall₂_congr fun w _ => BitVec.toNat_inj (y := 0#16)

theorem total_ne_zero_iff {ts : List Half} : total ts ≠ 0 ↔ ∃ w ∈ ts, w ≠ 0#16 := by
  rw [Ne, total_eq_zero_iff]
  push Not
  rfl

theorem addTerms_cons (a : Word) (w : Half) (ts : List Half) : addTerms a (w :: ts) = addTerms (accAdd a w) ts := rfl

theorem addTerms_append (a : Word) (ts us : List Half) : addTerms a (ts ++ us) = addTerms (addTerms a ts) us :=
  List.foldl_append

theorem foldedValue_addTerms (a : Word) (ts : List Half) :
    foldedValue (addTerms a ts).toNat = foldedValue (a.toNat + total ts) := by
  induction ts generalizing a with
  | nil => rfl
  | cons w ts ih => rw [addTerms_cons, ih, total_cons, foldedValue_accAdd_add]

theorem fold_addTerms_toNat (a : Word) (ts : List Half) :
    (fold (addTerms a ts)).toNat = foldedValue (a.toNat + total ts) := by
  rw [fold_toNat_eq_foldedValue, foldedValue_addTerms]

theorem fold_addTerms_zero_toNat (ts : List Half) : (fold (addTerms 0#32 ts)).toNat = foldedValue (total ts) := by
  rw [fold_addTerms_toNat, BitVec.toNat_zero, Nat.zero_add]

/-- A sum that stays below `2^32` is the true sum of the terms (R111). -/
theorem addTerms_toNat_of_lt {ts : List Half} (h : a.toNat + total ts < 2 ^ 32) :
    (addTerms a ts).toNat = a.toNat + total ts := by
  induction ts generalizing a with
  | nil => rfl
  | cons w ts ih =>
    rw [total_cons, ← Nat.add_assoc] at h ⊢
    have hacc : (accAdd a w).toNat = a.toNat + w.toNat := accAdd_toNat_of_lt (by omega)
    rw [← hacc] at h ⊢
    exact ih h

/-- Settles O41: an accumulator of any width folds to the value of the total, since neither the carry nor a pass of
`Fold` changes that value. -/
theorem accAddIsEndAroundCarry : Obligations.AccAddIsEndAroundCarry := by
  unfold Obligations.AccAddIsEndAroundCarry
  refine ⟨fun a w => ⟨accAdd_toNat a w, accAdd_mod a w, eq_zero_of_accAdd_eq_zero⟩, ?unbounded⟩
  rintro ts _ rfl
  exact (fold_addTerms_zero_toNat ts).trans (foldLoop_eq_foldedValue le_rfl).symm

/-- Settles O42: a finished sum is the value of the total, which no order of the terms changes. -/
theorem finishedSumValue : Obligations.FinishedSumValue := by
  unfold Obligations.FinishedSumValue
  refine ⟨fun ts => ⟨fun hzero => ?zero, fun hne => ?nonzero⟩, fun ts us hperm => ?order⟩
  case zero =>
    apply BitVec.eq_of_toNat_eq
    rw [fold_addTerms_zero_toNat, total_eq_zero_iff.2 hzero]
    rfl
  case nonzero =>
    rw [fold_addTerms_zero_toNat]
    exact ⟨Nat.pos_of_ne_zero fun h => total_ne_zero_iff.2 hne (foldedValue_eq_zero_iff.1 h), foldedValue_mod _⟩
  case order =>
    apply BitVec.eq_of_toNat_eq
    rw [fold_addTerms_zero_toNat, fold_addTerms_zero_toNat, total_perm hperm]

/-! ### `Cpl16` and `Finish` (R103) -/

theorem cpl16_toNat (v : Half) : (cpl16 v).toNat = 0xFFFF - v.toNat := by
  rw [cpl16]
  bv_omega

theorem cpl16_eq_xor (v : Half) : cpl16 v = v ^^^ 0xFFFF#16 :=
  (BitVec.allOnes_sub_eq_not v).trans BitVec.xor_allOnes.symm

theorem finish_toNat (a : Word) : (finish a).toNat = 0xFFFF - foldedValue a.toNat := by
  rw [finish, cpl16_toNat, fold_toNat_eq_foldedValue]

theorem finish_eq_zero_iff_fold : finish a = 0x0000#16 ↔ fold a = 0xFFFF#16 := by
  rw [finish, cpl16]
  bv_omega

/-- A finished checksum is 0 exactly for a sum that is not 0 and is a multiple of 65535. -/
theorem finish_eq_zero_iff : finish a = 0x0000#16 ↔ foldedValue a.toNat = 0xFFFF := by
  rw [finish_eq_zero_iff_fold, ← fold_toNat_eq_foldedValue]
  exact BitVec.toNat_inj.symm

/-- Settles O43: the complement is 0 for the value `0xFFFF` alone, which is that of the nonzero multiples of 65535. -/
theorem complementAndFinish : Obligations.ComplementAndFinish := by
  unfold Obligations.ComplementAndFinish
  refine ⟨fun v => ⟨cpl16_toNat v, cpl16_eq_xor v⟩, by decide, fun a => ⟨rfl, finish_eq_zero_iff_fold⟩, fun ts => ?_⟩
  rw [finish_eq_zero_iff, foldedValue_addTerms, BitVec.toNat_zero, Nat.zero_add, foldedValue_eq_ffff_iff,
    total_ne_zero_iff]
  rfl

/-! ### Byte strings as terms (R17, R105) -/

/-- The terms of a byte string: byte pairs from the start, an odd last byte in the high half (R17). -/
def byteTerms : List Byte → List Half
  | [] => []
  | [b] => [beWord b 0x00#8]
  | b0 :: b1 :: bs => beWord b0 b1 :: byteTerms bs

theorem sumBytes_eq_addTerms (a : Word) (bs : List Byte) : sumBytes a bs = addTerms a (byteTerms bs) := by
  induction a, bs using sumBytes.induct with
  | case1 a => rfl
  | case2 a b => rfl
  | case3 a b0 b1 bs ih => rw [sumBytes, ih]; rfl

theorem naturalSum_eq_total (bs : List Byte) : naturalSum bs = total (byteTerms bs) := by
  induction bs using byteTerms.induct with
  | case1 => rfl
  | case2 b => simp only [naturalSum, byteTerms, total_cons, total_nil, beWord_toNat, BitVec.toNat_zero, Nat.add_zero]
  | case3 b0 b1 bs ih => rw [naturalSum, byteTerms, total_cons, beWord_toNat, ih]

/-- A string of even length is cut into pairs separately from what follows it. -/
theorem byteTerms_append_of_even {bs : List Byte} (h : bs.length % 2 = 0) (cs : List Byte) :
    byteTerms (bs ++ cs) = byteTerms bs ++ byteTerms cs := by
  induction bs using byteTerms.induct with
  | case1 => rfl
  | case2 b => cases h
  | case3 b0 b1 bs ih =>
    have heven : bs.length % 2 = 0 := by simpa [Nat.add_assoc] using h
    exact congrArg (beWord b0 b1 :: ·) (ih heven)

/-- An odd last byte makes the same term as with a zero byte after it. -/
theorem byteTerms_append_zero_of_odd {bs : List Byte} (h : bs.length % 2 = 1) :
    byteTerms (bs ++ [0x00#8]) = byteTerms bs := by
  induction bs using byteTerms.induct with
  | case1 => cases h
  | case2 b => rfl
  | case3 b0 b1 bs ih =>
    have hodd : bs.length % 2 = 1 := by simpa [Nat.add_assoc] using h
    exact congrArg (beWord b0 b1 :: ·) (ih hodd)

theorem sumBytes_append_of_even {bs : List Byte} (h : bs.length % 2 = 0) (a : Word) (cs : List Byte) :
    sumBytes a (bs ++ cs) = sumBytes (sumBytes a bs) cs := by
  simp only [sumBytes_eq_addTerms, byteTerms_append_of_even h, addTerms_append]

theorem naturalSum_append_of_even {bs : List Byte} (h : bs.length % 2 = 0) (cs : List Byte) :
    naturalSum (bs ++ cs) = naturalSum bs + naturalSum cs := by
  simp only [naturalSum_eq_total, byteTerms_append_of_even h, total_append]

/-- Settles O45: both hold of the terms of the string. -/
theorem sumBytesPairsFromTheStart : Obligations.SumBytesPairsFromTheStart := by
  unfold Obligations.SumBytesPairsFromTheStart
  refine ⟨fun a bs hodd => ?padding, fun a bs cs heven => sumBytes_append_of_even heven a cs⟩
  rw [sumBytes_eq_addTerms, byteTerms_append_zero_of_odd hodd, ← sumBytes_eq_addTerms]

/-! ### Sums inside one command (R111) -/

theorem naturalSum_le (bs : List Byte) : naturalSum bs ≤ 65535 * ((bs.length + 1) / 2) := by
  induction bs using naturalSum.induct with
  | case1 => exact Nat.zero_le _
  | case2 b =>
    have hb := b.isLt
    simp only [naturalSum, List.length_singleton]
    omega
  | case3 b0 b1 bs ih =>
    have hb0 := b0.isLt
    have hb1 := b1.isLt
    simp only [naturalSum, List.length_cons]
    omega

/-- The header terms of the UDP sum as numbers (R122). -/
theorem total_udpTerms (sip dip : Word) (sport dport : Half) (hn : n ≤ 65507) :
    total (udpTerms sip dip sport dport n) =
      sip.toNat / 65536 + sip.toNat % 65536 + dip.toNat / 65536 + dip.toNat % 65536 + 0x11 + (8 + n)
        + sport.toNat + dport.toNat + (8 + n) := by
  have hlen : (BitVec.ofNat 16 (8 + n)).toNat = 8 + n := Nat.mod_eq_of_lt (by omega)
  have hproto : (beWord 0x00#8 protocolUdp).toNat = 0x11 := by decide
  simp only [udpTerms, total_cons, total_nil, hiHalf_toNat, loHalf_toNat, hlen, hproto]
  omega

/-- Settles O46: at most 65536 terms, or nine and at most 32754, add up to less than `2^32`. -/
theorem commandSumsNeverWrap : Obligations.CommandSumsNeverWrap := by
  unfold Obligations.CommandSumsNeverWrap
  refine ⟨fun bs hlen => ?generic, fun sip dip sport dport n bs hn hlen => ?udp⟩
  case generic =>
    have hle := naturalSum_le bs
    rw [sumBytes_toNat_of_lt (by rw [BitVec.toNat_zero]; omega), BitVec.toNat_zero, Nat.zero_add]
  case udp =>
    have hle := naturalSum_le bs
    have hsip := sip.isLt
    have hdip := dip.isLt
    have hsport := sport.isLt
    have hdport := dport.isLt
    have hterms := total_udpTerms sip dip sport dport hn
    have hheader : (addTerms 0#32 (udpTerms sip dip sport dport n)).toNat = total (udpTerms sip dip sport dport n) := by
      rw [addTerms_toNat_of_lt (by rw [BitVec.toNat_zero]; omega), BitVec.toNat_zero, Nat.zero_add]
    rw [udpSum, sumBytes_toNat_of_lt (by omega), hheader, hterms]

/-! ### A checksum in its own field (R112) -/

theorem foldedValue_sumBytes (a : Word) (bs : List Byte) :
    foldedValue (sumBytes a bs).toNat = foldedValue (a.toNat + naturalSum bs) := by
  rw [sumBytes_eq_addTerms, foldedValue_addTerms, naturalSum_eq_total]

theorem foldedValue_sumBytes_zero (bs : List Byte) :
    foldedValue (sumBytes 0#32 bs).toNat = foldedValue (naturalSum bs) := by
  rw [foldedValue_sumBytes, BitVec.toNat_zero, Nat.zero_add]

/-- A 16-bit field at an even position adds its value to the sum of the string with the field at zero. -/
theorem naturalSum_field {before : List Byte} (h : before.length % 2 = 0) (c : Half) (after : List Byte) :
    naturalSum (before ++ be16 c ++ after) = naturalSum before + naturalSum after + c.toNat := by
  rw [List.append_assoc, naturalSum_append_of_even h, naturalSum_be16_append]
  omega

/-- A total and the complement of its value make a nonzero multiple of 65535. -/
theorem foldedValue_add_complement (n : Nat) : foldedValue (n + (0xFFFF - foldedValue n)) = 0xFFFF := by
  have hle := foldedValue_le n
  have hmod := foldedValue_mod n
  have hzero : foldedValue n = 0 ↔ n = 0 := foldedValue_eq_zero_iff
  exact foldedValue_eq_ffff_iff.2 ⟨by omega, by omega⟩

theorem finish_sumBytes_of_checksum {before after : List Byte} {c : Half} (h : before.length % 2 = 0)
    (hc : c = finish (sumBytes 0#32 (before ++ be16 0#16 ++ after))) :
    finish (sumBytes 0#32 (before ++ be16 c ++ after)) = 0x0000#16 := by
  have hval : c.toNat = 0xFFFF - foldedValue (naturalSum before + naturalSum after) := by
    rw [hc, finish_toNat, foldedValue_sumBytes_zero, naturalSum_field h, BitVec.toNat_zero, Nat.add_zero]
  rw [finish_eq_zero_iff, foldedValue_sumBytes_zero, naturalSum_field h, hval, foldedValue_add_complement]

/-- Settles O47: the checksum is the complement of the sum of the rest of the string. -/
theorem checksumSelfVerifies : Obligations.ChecksumSelfVerifies := by
  unfold Obligations.ChecksumSelfVerifies
  exact fun before after c hbefore _ hc => finish_sumBytes_of_checksum hbefore hc

end Sys2Proof.Machine
end

section
/-! Proofs of the family of spec/40_accumulator.md: the accumulator commands (R107 to R110) and the header that `BUILD`
wrote (R112). -/

namespace Sys2Proof.Machine

variable {s : State} {sel : BufSel}

/-! ### The accumulator commands (R107 to R110) -/

/-- The command word of `AADD` as a number (R108). -/
theorem encode_aadd_eq_ofNat (imm16 : Half) :
    encode (.aadd imm16) = BitVec.ofNat 32 (imm16.toNat * 256 + 0x02) := by
  apply BitVec.eq_of_toNat_eq
  have hsplit : (0x00#8 ++ imm16 ++ 0x02#8).toNat = (0x00#8 ++ imm16).toNat * 256 + 0x02 := by
    rw [BitVec.toNat_append, ← Nat.shiftLeft_add_eq_or_of_lt (by decide), Nat.shiftLeft_eq]; rfl
  have himm : (0x00#8 ++ imm16).toNat = imm16.toNat := by rw [BitVec.toNat_append]; simp
  have hlt := imm16.isLt
  rw [encode, hsplit, himm, BitVec.toNat_ofNat]
  omega

theorem accAdd_eq_ofNat (a : Word) (w : Half) :
    accAdd a w = BitVec.ofNat 32
      (if a.toNat + w.toNat < 2 ^ 32 then a.toNat + w.toNat else a.toNat + w.toNat - 2 ^ 32 + 1) := by
  rw [← accAdd_toNat, BitVec.ofNat_toNat, BitVec.setWidth_eq]

theorem cpl16_eq_ofNat (v : Half) : cpl16 v = BitVec.ofNat 16 (0xFFFF - v.toNat) := by
  rw [← cpl16_toNat, BitVec.ofNat_toNat, BitVec.setWidth_eq]

/-- Settles O20: the word is the encoding of `ACLR`. -/
theorem aclrCompletes : Obligations.AclrCompletes := by
  unfold Obligations.AclrCompletes
  exact ⟨fun s => rfl, decode_encode .aclr⟩

/-- Settles O21: `ACC` takes the end-around sum, and the word is the encoding of the command. -/
theorem aaddCompletes : Obligations.AaddCompletes := by
  unfold Obligations.AaddCompletes
  intro s imm16
  rw [← accAdd_eq_ofNat, ← encode_aadd_eq_ofNat]
  exact ⟨rfl, decode_encode (.aadd imm16)⟩

theorem exec_asum_of_valid (h : s.RegionValid sel) :
    exec (.asum sel) s = .next
      (((s.setAcc (sumBytes s.acc (s.region sel).1)).setFresh (s.region sel).2).setStatus s.status.completed) :=
  if_pos h

theorem exec_asum_of_not_valid (h : ¬ s.RegionValid sel) :
    exec (.asum sel) s = .next (s.setStatus (s.status.failed .region)) :=
  if_neg h

/-- Settles O22: the region is valid or not by the size of the selected buffer. -/
theorem asumCompletes : Obligations.AsumCompletes := by
  unfold Obligations.AsumCompletes
  intro s sel m size hpbuf hfbuf
  obtain ⟨rfl, rfl⟩ : m = s.buf sel ∧ size = s.bufSize sel := by
    cases sel with
    | pbuf => exact hpbuf rfl
    | fbuf => exact hfbuf rfl
  exact ⟨fun hvalid => ⟨_, exec_asum_of_valid hvalid⟩, fun hinvalid => exec_asum_of_not_valid hinvalid.not_ge,
    decode_encode (.asum .pbuf), decode_encode (.asum .fbuf)⟩

theorem exec_afin_eq (s : State) :
    exec .afin s = .next ((leaveChecksum s.acc s).setStatus s.status.completed) := rfl

/-- The accumulator goes on from its folded value to the same finished value (R110). -/
theorem fold_addTerms_fold (a : Word) (ts : List Half) :
    fold (addTerms ((fold a).setWidth 32) ts) = fold (addTerms a ts) := by
  have hfold : ((fold a).setWidth 32).toNat = foldedValue a.toNat := by
    rw [BitVec.toNat_setWidth_of_le (by decide), fold_toNat_eq_foldedValue]
  apply BitVec.eq_of_toNat_eq
  rw [fold_addTerms_toNat, fold_addTerms_toNat, hfold, foldedValue_add_left]

theorem fold_setWidth_fold (a : Word) : fold ((fold a).setWidth 32) = fold a := fold_addTerms_fold a []

/-- Settles O23: the folded value has the residue of the sum and is 0 only with it, so further terms go on alike. -/
theorem afinCompletes : Obligations.AfinCompletes := by
  unfold Obligations.AfinCompletes
  refine ⟨fun s => ?effect, decode_encode .afin, fun a ts => ?further⟩
  case effect =>
    rw [BitVec.ofNat_toNat, ← cpl16_eq_ofNat]
    exact exec_afin_eq s
  case further =>
    rw [BitVec.ofNat_toNat]
    exact fold_addTerms_fold a ts

/-- Settles O38: the first `AFIN` leaves the folded value, whose fold is itself. -/
theorem finishTwiceIsFinishOnce : Obligations.FinishTwiceIsFinishOnce := by
  unfold Obligations.FinishTwiceIsFinishOnce
  intro s
  refine ⟨_, exec_afin_eq s, ?_⟩
  rw [exec_afin_eq, leaveChecksum, leaveChecksum, State.setStatus_acc, State.setCsum_acc, State.setAcc_acc,
    fold_setWidth_fold]
  rfl

/-! ### Adjacent regions (R109) -/

/-- A read of a range is a read of its first part and then, going on with the draws, of the rest. -/
theorem Memory.read_add (m : Memory) (fresh a k n : Nat) :
    m.read fresh a (k + n) =
      ((m.read fresh a k).1 ++ (m.read (m.read fresh a k).2 (a + k) n).1,
        (m.read (m.read fresh a k).2 (a + k) n).2) := by
  induction k generalizing fresh a with
  | zero => simp
  | succ k ih =>
    rw [Nat.add_right_comm, read, ih, Nat.add_right_comm a 1 k, Nat.add_assoc a k 1]
    rfl

/-- An even first part of a range is summed separately from the rest (R105). -/
theorem sumBytes_read_add {k : Nat} (h : k % 2 = 0) (a : Word) (m : Memory) (fresh base n : Nat) :
    sumBytes a (m.read fresh base (k + n)).1 =
      sumBytes (sumBytes a (m.read fresh base k).1) (m.read (m.read fresh base k).2 (base + k) n).1 := by
  have heven : (m.read fresh base k).1.length % 2 = 0 := by rwa [Memory.read_length]
  rw [Memory.read_add, sumBytes_append_of_even heven]

theorem bufSize_lt_of_legal (h : s.cfg.Legal) (sel : BufSel) : s.bufSize sel < 2 ^ 32 := by
  obtain ⟨-, hfbuf, -, hpbuf⟩ := h
  cases sel with
  | pbuf => exact Nat.lt_of_le_of_lt hpbuf (by decide)
  | fbuf => exact Nat.lt_of_le_of_lt hfbuf (by decide)

/-- What an `ASUM` leaves, by the numbers of its region. -/
theorem exec_asum_at {base len : Nat} (hbase : s.params.rbase.toNat = base) (hlen : s.params.rlen.toNat = len)
    (hvalid : base + len ≤ s.bufSize sel) :
    exec (.asum sel) s = .next
      (((s.setAcc (sumBytes s.acc ((s.buf sel).read s.fresh base len).1)).setFresh
        ((s.buf sel).read s.fresh base len).2).setStatus s.status.completed) := by
  subst hbase hlen
  exact exec_asum_of_valid hvalid

/-- Settles O39: the second `ASUM` goes on from the sum and the draws of the first, whose length is even; the end of a
legal region does not wrap. -/
theorem evenRegionsAddUp : Obligations.EvenRegionsAddUp := by
  unfold Obligations.EvenRegionsAddUp
  intro s sel k hlegal hvalid hk heven
  have hsize := bufSize_lt_of_legal hlegal sel
  obtain ⟨rest, hrlen⟩ := Nat.exists_eq_add_of_le hk
  have hend : s.params.rbase.toNat + (k + rest) ≤ s.bufSize sel := hrlen ▸ hvalid
  have hfirst : (BitVec.ofNat 32 k).toNat = k := Nat.mod_eq_of_lt (by omega)
  have hbase : (BitVec.ofNat 32 (s.params.rbase.toNat + k)).toNat = s.params.rbase.toNat + k :=
    Nat.mod_eq_of_lt (by omega)
  have hsecond : (BitVec.ofNat 32 (s.params.rlen.toNat - k)).toNat = rest := by
    rw [hrlen, Nat.add_sub_cancel_left]
    exact Nat.mod_eq_of_lt (by omega)
  refine ⟨_, _, _, exec_asum_at (base := s.params.rbase.toNat) rfl hfirst (Nat.le_trans (by omega) hend),
    exec_asum_at hbase hsecond (Nat.le_trans (by omega) hend), exec_asum_at rfl hrlen hend, ?_⟩
  exact (sumBytes_read_add heven s.acc (s.buf sel) s.fresh s.params.rbase.toNat rest).symm

/-! ### The header that `BUILD` wrote (R112, R121, R144) -/

theorem exec_build_of_ok (hlen : s.LenOkBuild) (hcov : s.CovOk) : exec .build s = .next s.built :=
  (if_pos hlen).trans (if_pos hcov)

theorem exec_cksum_of_valid (h : s.RegionValid sel) :
    exec (.cksum sel) s = .next
      (((leaveChecksum (sumBytes 0#32 (s.region sel).1) s).setFresh (s.region sel).2).setStatus
        s.status.completed) :=
  if_pos h

/-- The header checksum stands at an even position (R75). -/
theorem ipHeader_checksum_field (p : ParamRegs) (n : Nat) :
    ∃ before after : List Byte, before.length = 10 ∧ ∀ ck, ipHeader p n ck = before ++ be16 ck ++ after :=
  ⟨[versionIhl, 0x00#8] ++ be16 (BitVec.ofNat 16 (28 + n)) ++ be16 0#16 ++ be16 0#16 ++ [timeToLive, protocolUdp],
    be32 p.sip ++ be32 p.dip, rfl, fun _ => rfl⟩

/-- The IPv4 header with its checksum in place has the checksum 0 (R77, R112). -/
theorem finish_ipHeader (p : ParamRegs) (n : Nat) :
    finish (sumBytes 0#32 (ipHeader p n (ipChecksum p n))) = 0x0000#16 := by
  obtain ⟨before, after, hlen, hfield⟩ := ipHeader_checksum_field p n
  rw [hfield]
  exact finish_sumBytes_of_checksum (by rw [hlen]) (by rw [← hfield, ipChecksum])

/-- After a `BUILD`, `FBUF[14..33]` reads as the IPv4 header (R73). -/
theorem built_read_ipHeader (s : State) (fresh : Nat) :
    (s.built.fbuf.read fresh 14 20).1 = ipHeader s.params s.payloadLen (ipChecksum s.params s.payloadLen) := by
  have hwritten : s.built.fbuf.Written 14 20 := fun k hk => built_get?_isSome (by omega)
  apply List.ext_getElem?
  intro k
  by_cases hk : k < 20
  · rw [Memory.read_getElem?_of_written hwritten hk, built_get?_headers (by omega), State.headers, List.append_assoc,
      List.getElem?_append_right (by rw [ethHeader_length]; omega), ethHeader_length, Nat.add_sub_cancel_left,
      List.getElem?_append_left (by rwa [ipHeader_length])]
  · rw [List.getElem?_eq_none (by rw [Memory.read_length]; omega),
      List.getElem?_eq_none (by rw [ipHeader_length]; omega)]

/-- Settles O32: `CKSUM` reads back the header with its checksum in place, a string whose checksum is 0. -/
theorem builtHeaderVerifies : Obligations.BuiltHeaderVerifies := by
  unfold Obligations.BuiltHeaderVerifies
  intro s hmax hpbuf hfbuf hcov
  have hregion : 14 + 20 ≤ s.cfg.fbufSize := by omega
  have hcsum : finish (sumBytes 0#32 (s.built.fbuf.read s.built.fresh 14 20).1) = 0x0000#16 := by
    rw [built_read_ipHeader, finish_ipHeader]
  have hacc : (fold (sumBytes 0#32 (s.built.fbuf.read s.built.fresh 14 20).1)).setWidth 32 = 0x0000FFFF#32 := by
    rw [finish_eq_zero_iff_fold.1 hcsum]
    rfl
  exact ⟨_, _, exec_build_of_ok ⟨⟨hmax, hpbuf⟩, hfbuf⟩ hcov, exec_cksum_of_valid hregion, rfl, hcsum, hacc⟩

end Sys2Proof.Machine
end

section
/-! Proofs of the family of spec/41_checksum.md: the UDP sum and its checksum as those of the serialised datagram
(R124, R129, R133). -/

namespace Sys2Proof.Machine

/-! ### The serialised headers as terms (R86, R122, R124) -/

theorem byteTerms_be16_append (v : Half) (bs : List Byte) : byteTerms (be16 v ++ bs) = v :: byteTerms bs :=
  congrArg (· :: byteTerms bs) (beWord_be16 v)

theorem byteTerms_be32_append (v : Word) (bs : List Byte) :
    byteTerms (be32 v ++ bs) = hiHalf v :: loHalf v :: byteTerms bs := by
  rw [be32_eq_halves, List.append_assoc, byteTerms_be16_append, byteTerms_be16_append]

/-- The pseudo-header and the UDP header as fields of 16 and 32 bits (R80, R86). -/
theorem udpHeaders_fields (sip dip : Word) (sport dport : Half) (n : Nat) (ck : Half) :
    pseudoHeader sip dip n ++ udpHeaderOf sport dport n ck =
      be32 sip ++ (be32 dip ++ (be16 (beWord 0x00#8 protocolUdp) ++ (be16 (BitVec.ofNat 16 (8 + n)) ++
        (be16 sport ++ (be16 dport ++ (be16 (BitVec.ofNat 16 (8 + n)) ++ (be16 ck ++ []))))))) := rfl

/-- In the order of the bytes the terms of the two headers are those of `UdpSum`, and then the checksum field. -/
theorem byteTerms_udpHeaders (sip dip : Word) (sport dport : Half) (n : Nat) (ck : Half) :
    byteTerms (pseudoHeader sip dip n ++ udpHeaderOf sport dport n ck) = udpTerms sip dip sport dport n ++ [ck] := by
  simp only [udpHeaders_fields, byteTerms_be32_append, byteTerms_be16_append]
  rfl

theorem accAdd_zero (a : Word) : accAdd a 0#16 = a :=
  BitVec.eq_of_toNat_eq (accAdd_toNat_of_lt (w := 0#16) a.isLt)

/-- `UdpSum` is the sum of the serialised datagram with its checksum field at zero, whatever the lengths (R124). -/
theorem udpSum_eq_sumBytes (sip dip : Word) (sport dport : Half) (n : Nat) (covered : List Byte) :
    udpSum sip dip sport dport n covered =
      sumBytes 0#32 (pseudoHeader sip dip n ++ udpHeaderOf sport dport n 0#16 ++ covered) := by
  have hlen : (pseudoHeader sip dip n ++ udpHeaderOf sport dport n 0#16).length = 20 := rfl
  have hheaders : sumBytes 0#32 (pseudoHeader sip dip n ++ udpHeaderOf sport dport n 0#16) =
      addTerms 0#32 (udpTerms sip dip sport dport n) := by
    rw [sumBytes_eq_addTerms, byteTerms_udpHeaders, addTerms_append]
    exact accAdd_zero _
  rw [sumBytes_append_of_even (by rw [hlen]), hheaders, udpSum]

/-- Settles O48: the two headers make the terms of `UdpSum` and a zero one. -/
theorem udpSumIsTheCanonicalSum : Obligations.UdpSumIsTheCanonicalSum := by
  unfold Obligations.UdpSumIsTheCanonicalSum
  exact fun sip dip sport dport n covered _ _ => udpSum_eq_sumBytes sip dip sport dport n covered

/-! ### The UDP checksum in its field (R133) -/

/-- The UDP checksum stands at an even position of the serialised datagram (R80, R86). -/
theorem udpHeaders_checksum_field (sip dip : Word) (sport dport : Half) (n : Nat) :
    ∃ before : List Byte, before.length = 18 ∧
      ∀ ck, pseudoHeader sip dip n ++ udpHeaderOf sport dport n ck = before ++ be16 ck :=
  ⟨pseudoHeader sip dip n ++ be16 sport ++ be16 dport ++ be16 (BitVec.ofNat 16 (8 + n)), rfl, fun _ => rfl⟩

/-- Settles O49: the checksum is that of the datagram with its own field, at an even position, at zero. -/
theorem udpChecksumSelfVerifies : Obligations.UdpChecksumSelfVerifies := by
  unfold Obligations.UdpChecksumSelfVerifies
  intro sip dip sport dport n covered c _ _ hc
  obtain ⟨before, hlen, hfield⟩ := udpHeaders_checksum_field sip dip sport dport n
  rw [udpSum_eq_sumBytes, hfield] at hc
  rw [hfield]
  exact finish_sumBytes_of_checksum (by rw [hlen]) hc

/-! ### Zero bytes at the end of a string (R105, R129) -/

/-- A zero byte at the end fills up an odd last pair, or makes a zero term. -/
theorem sumBytes_append_zero (a : Word) (bs : List Byte) : sumBytes a (bs ++ [0x00#8]) = sumBytes a bs := by
  rcases Nat.mod_two_eq_zero_or_one bs.length with heven | hodd
  · rw [sumBytes_append_of_even heven]
    exact accAdd_zero _
  · rw [sumBytes_eq_addTerms, byteTerms_append_zero_of_odd hodd, ← sumBytes_eq_addTerms]

theorem sumBytes_append_zeros {tail : List Byte} (h : ∀ b ∈ tail, b = 0x00#8) (a : Word) (bs : List Byte) :
    sumBytes a (bs ++ tail) = sumBytes a bs := by
  induction tail generalizing bs with
  | nil => rw [List.append_nil]
  | cons b tail ih =>
    obtain ⟨rfl, htail⟩ := List.forall_mem_cons.1 h
    rw [List.append_cons, ih htail, sumBytes_append_zero]

/-- Settles O50: the two sums are equal, so their checksums are. -/
theorem zeroTailNeedsNoCoverage : Obligations.ZeroTailNeedsNoCoverage := by
  unfold Obligations.ZeroTailNeedsNoCoverage
  intro sip dip sport dport n covered tail _ hzero
  rw [udpSum, udpSum, sumBytes_append_zeros hzero]

end Sys2Proof.Machine
end

section
/-! Proofs of the family of spec/41_checksum.md: the commands `CKSUM` and `UDPCS` (R120, R121, R126, R127) and a
computed UDP checksum of zero (R131). -/

namespace Sys2Proof.Machine

variable {s t : State} {sel : BufSel}

/-! ### What a finished sum leaves (R110, R121, R127) -/

/-- The two result registers of a finished sum as numbers. -/
theorem leaveChecksum_eq (a : Word) (s : State) :
    leaveChecksum a s =
      { s with
        acc := BitVec.ofNat 32 (fold a).toNat
        csum := BitVec.ofNat 16 (0xFFFF - (fold a).toNat) } := by
  rw [BitVec.ofNat_toNat, ← cpl16_eq_ofNat]
  rfl

/-- A folded sum that reads `0xFFFF` in `ACC` has the complement 0 (R103). -/
theorem finish_eq_zero_of_setWidth_fold {a : Word} (h : (fold a).setWidth 32 = 0x0000FFFF#32) :
    finish a = 0x0000#16 := by
  have hfold := congrArg BitVec.toNat h
  rw [BitVec.toNat_setWidth_of_le (by decide)] at hfold
  exact finish_eq_zero_iff_fold.2 (BitVec.eq_of_toNat_eq hfold)

/-! ### `CKSUM` (R120, R121) -/

theorem exec_cksum_of_not_valid (h : ¬ s.RegionValid sel) :
    exec (.cksum sel) s = .next (s.setStatus (s.status.failed .region)) :=
  if_neg h

/-- Settles O24: the region is valid or not by the size of the selected buffer, and a valid one leaves its finished
sum. -/
theorem cksumCompletes : Obligations.CksumCompletes := by
  unfold Obligations.CksumCompletes
  intro s sel m size hpbuf hfbuf
  obtain ⟨rfl, rfl⟩ : m = s.buf sel ∧ size = s.bufSize sel := by
    cases sel with
    | pbuf => exact hpbuf rfl
    | fbuf => exact hfbuf rfl
  refine ⟨fun hvalid => ⟨_, (s.region sel).2, rfl, ?completes⟩,
    fun hinvalid => exec_cksum_of_not_valid hinvalid.not_ge,
    decode_encode (.cksum .pbuf), decode_encode (.cksum .fbuf)⟩
  rw [exec_cksum_of_valid hvalid, leaveChecksum_eq]
  rfl

/-- Settles O37: `ACLR` makes the sum that `ASUM` goes on from the zero that `CKSUM` starts with. -/
theorem cksumIsClearSumFinish : Obligations.CksumIsClearSumFinish := by
  unfold Obligations.CksumIsClearSumFinish
  intro s sel hvalid
  exact ⟨_, _, _, rfl, exec_asum_of_valid hvalid, exec_afin_eq _, exec_cksum_of_valid hvalid⟩

/-! ### `UDPCS` (R126, R127) -/

/-- The bytes a `UDPCS` reads, `CLEN` taken as it stands, and the count of free values after it (R127). -/
def State.udpcsCovered (s : State) : List Byte × Nat := s.payload s.fresh s.params.clen.toNat

/-- What a successful `UDPCS` leaves. -/
def State.udpFinished (s : State) : State :=
  ((leaveChecksum (s.udpSum s.udpcsCovered.1) s).setFresh s.udpcsCovered.2).setStatus s.status.completed

theorem udpFinished_acc (s : State) : s.udpFinished.acc = (fold (s.udpSum s.udpcsCovered.1)).setWidth 32 := rfl

theorem udpFinished_csum (s : State) : s.udpFinished.csum = finish (s.udpSum s.udpcsCovered.1) := rfl

theorem exec_udpcs_of_ok (hlen : s.LenOk) (hcov : s.CovOk) : exec .udpcs s = .next s.udpFinished :=
  (if_pos hlen).trans (if_pos hcov)

theorem exec_udpcs_of_not_len (h : ¬ s.LenOk) : exec .udpcs s = .next (s.setStatus (s.status.failed .len)) :=
  if_neg h

theorem exec_udpcs_of_not_cov (hlen : s.LenOk) (hcov : ¬ s.CovOk) :
    exec .udpcs s = .next (s.setStatus (s.status.failed .cov)) :=
  (if_pos hlen).trans (if_neg hcov)

/-- `UDPCS` without an error is the finished UDP sum: each failed test sets `ERR` (R126). -/
theorem eq_udpFinished_of_exec (h : exec .udpcs s = .next t) (hok : t.status.err = false) : t = s.udpFinished := by
  by_cases hlen : s.LenOk
  · by_cases hcov : s.CovOk
    · exact Host.Outcome.next.inj (h.symm.trans (exec_udpcs_of_ok hlen hcov))
    · cases h.symm.trans (exec_udpcs_of_not_cov hlen hcov)
      cases hok
  · cases h.symm.trans (exec_udpcs_of_not_len hlen)
    cases hok

/-- Settles O25: the two tests decide between the finished UDP sum and the two errors, the length first. -/
theorem udpcsCompletes : Obligations.UdpcsCompletes := by
  unfold Obligations.UdpcsCompletes
  intro s
  refine ⟨fun hmax hpbuf hcov => ⟨_, s.udpcsCovered.2, rfl, ?completes⟩, fun hlong => ?len,
    fun hmax hpbuf hcov => exec_udpcs_of_not_cov ⟨hmax, hpbuf⟩ hcov.not_ge, decode_encode .udpcs⟩
  case completes =>
    rw [exec_udpcs_of_ok ⟨hmax, hpbuf⟩ hcov, State.udpFinished, leaveChecksum_eq]
    rfl
  case len =>
    have hlen : ¬ s.LenOk := fun ⟨hmax, hpbuf⟩ => hlong.elim hmax.not_gt hpbuf.not_gt
    exact exec_udpcs_of_not_len hlen

/-! ### A computed checksum of zero (R131) -/

/-- The coverage of `BUILD` by the register itself instead of its number (R142). -/
theorem buildCov_eq (s : State) :
    s.buildCov = if s.params.clen = 0#32 then s.params.plen.toNat else s.params.clen.toNat :=
  if_congr (BitVec.toNat_inj (y := 0#32)) rfl rfl

/-- `BUILD` stores the checksum it reports, at `FBUF[40..41]` (R80, R144). -/
theorem built_get?_checksum (s : State) :
    s.built.fbuf.get? 40 = some (s.built.csum.extractLsb' 8 8) ∧
    s.built.fbuf.get? 41 = some (s.built.csum.extractLsb' 0 8) :=
  ⟨built_get?_headers (by decide), built_get?_headers (by decide)⟩

/-- Settles O36: both commands leave the complement of the folded sum as it is, and `BUILD` stores that very value. -/
theorem zeroChecksumIsKept : Obligations.ZeroChecksumIsKept := by
  unfold Obligations.ZeroChecksumIsKept
  refine ⟨fun s t h hok hacc => ?udpcs, fun s hmax hpbuf hfbuf hcov hsum => ?build⟩
  case udpcs =>
    obtain rfl := eq_udpFinished_of_exec h hok
    rw [udpFinished_acc] at hacc
    rw [udpFinished_csum, finish_eq_zero_of_setWidth_fold hacc]
  case build =>
    rw [← buildCov_eq] at hsum
    have hcsum : s.built.csum = 0x0000#16 := finish_eq_zero_iff_fold.2 hsum
    obtain ⟨hhi, hlo⟩ := built_get?_checksum s
    rw [hcsum] at hhi hlo
    exact ⟨_, exec_build_of_ok ⟨⟨hmax, hpbuf⟩, hfbuf⟩ hcov, rfl, hcsum, hhi, hlo⟩

end Sys2Proof.Machine
end

section
/-! Proofs of the family of spec/42_frame.md: what a successful `BUILD` leaves (R142, R145, R146, R149) and what it
depends on (R147). -/

namespace Sys2Proof.Machine

variable {s s' t : State}

/-! ### When `BUILD` succeeds (R141, R146) -/

theorem exec_build_of_not_len (h : ¬ s.LenOkBuild) : exec .build s = .next (s.setStatus (s.status.failed .len)) :=
  if_neg h

theorem exec_build_of_not_cov (hlen : s.LenOkBuild) (hcov : ¬ s.CovOk) :
    exec .build s = .next (s.setStatus (s.status.failed .cov)) :=
  (if_pos hlen).trans (if_neg hcov)

/-- `BUILD` without an error has passed both tests: each failed one sets `ERR` (R141). -/
theorem eq_built_of_exec (h : exec .build s = .next t) (hok : t.status.err = false) :
    s.LenOkBuild ∧ s.CovOk ∧ t = s.built := by
  by_cases hlen : s.LenOkBuild
  · by_cases hcov : s.CovOk
    · exact ⟨hlen, hcov, Host.Outcome.next.inj (h.symm.trans (exec_build_of_ok hlen hcov))⟩
    · cases h.symm.trans (exec_build_of_not_cov hlen hcov)
      cases hok
  · cases h.symm.trans (exec_build_of_not_len hlen)
    cases hok

/-- With legal sizes the room in `FBUF` is the only bound on the payload (R7, R146). -/
theorem lenOkBuild_iff_of_legal (h : s.cfg.Legal) : s.LenOkBuild ↔ s.params.plen.toNat ≤ s.cfg.fbufSize - 42 := by
  obtain ⟨hmin, hmax, hpbuf, -⟩ := h
  simp only [State.LenOkBuild, State.LenOk, State.payloadLen, maxUdpPayload, hdrLen]
  omega

/-! ### The result registers (R145) -/

theorem built_flen (h : s.LenOkBuild) : s.built.flen.toNat = 42 + s.params.plen.toNat :=
  (State.built_flen_toNat h).trans (State.frame_length s)

theorem built_acc_toNat (s : State) : s.built.acc.toNat = (fold s.buildSum).toNat :=
  BitVec.toNat_setWidth_of_le (by decide)

theorem built_csum_toNat (s : State) : s.built.csum.toNat = 0xFFFF - (fold s.buildSum).toNat :=
  cpl16_toNat (fold s.buildSum)

/-- Settles O26: `BUILD` leaves the finished UDP sum over the defaulted coverage, and both checksums stand in the
headers of its frame. -/
theorem buildCompletes : Obligations.BuildCompletes := by
  unfold Obligations.BuildCompletes
  intro s cov f hmax hpbuf hfbuf hcov hcoverage hf
  have hlen : s.LenOkBuild := ⟨⟨hmax, hpbuf⟩, hfbuf⟩
  obtain rfl : cov = s.buildCov := hcoverage.trans (buildCov_eq s).symm
  obtain rfl : f = fold s.buildSum := hf
  obtain ⟨hudpHi, hudpLo⟩ := built_get?_checksum s
  have hipHi := built_get?_headers (s := s) (k := 24) (by decide)
  have hipLo := built_get?_headers (s := s) (k := 25) (by decide)
  exact ⟨s.built, exec_build_of_ok hlen hcov, rfl, built_flen hlen, built_csum_toNat s, built_acc_toNat s,
    hudpHi, hudpLo, hipHi, hipLo, rfl, rfl, rfl, rfl, rfl, rfl⟩

/-- Settles O34: with legal sizes the length test passes exactly up to `FBUF_SIZE - 42`. -/
theorem buildLengthInvariant : Obligations.BuildLengthInvariant := by
  unfold Obligations.BuildLengthInvariant
  intro s hlegal
  refine ⟨fun hfits hcov => ?succeeds, fun hlong => ?fails⟩
  case succeeds =>
    have hlen : s.LenOkBuild := (lenOkBuild_iff_of_legal hlegal).2 hfits
    exact ⟨s.built, exec_build_of_ok hlen hcov, rfl, built_flen hlen⟩
  case fails => exact exec_build_of_not_len (mt (lenOkBuild_iff_of_legal hlegal).1 hlong.not_ge)

/-! ### What a `BUILD` depends on (R142, R147) -/

/-- Two states in which `BUILD` meets the same operands: the seven registers it takes as they stand, the coverage it
makes of `CLEN`, the payload, and the free values of unwritten bytes. -/
structure State.SameBuildOperands (s s' : State) : Prop where
  dmac : s.params.dmac = s'.params.dmac
  smac : s.params.smac = s'.params.smac
  sip : s.params.sip = s'.params.sip
  dip : s.params.dip = s'.params.dip
  sport : s.params.sport = s'.params.sport
  dport : s.params.dport = s'.params.dport
  plen : s.params.plen = s'.params.plen
  coverage : s.buildCov = s'.buildCov
  fresh : s.fresh = s'.fresh
  payload : ∀ k < s.payloadLen, s.pbuf.get? k = s'.pbuf.get? k

theorem buildCov_le (h : s.CovOk) : s.buildCov ≤ s.payloadLen := by
  rw [State.buildCov]
  split
  · exact Nat.le_refl s.payloadLen
  · exact h

namespace State.SameBuildOperands

theorem payloadLen_eq (h : s.SameBuildOperands s') : s.payloadLen = s'.payloadLen := congrArg BitVec.toNat h.plen

/-- A read inside the payload gives the same bytes and draws in both states. -/
theorem payload_eq (h : s.SameBuildOperands s') {n : Nat} (hn : n ≤ s.payloadLen) (fresh : Nat) :
    s.payload fresh n = s'.payload fresh n := by
  refine Memory.read_congr (fun k hk => ?_) fresh
  rw [Nat.zero_add]
  exact h.payload k (Nat.lt_of_lt_of_le hk hn)

theorem buildCovered_eq (h : s.SameBuildOperands s') (hcov : s.CovOk) : s.buildCovered = s'.buildCovered := by
  rw [buildCovered, h.payload_eq (buildCov_le hcov), h.fresh, h.coverage]
  rfl

theorem buildPayload_eq (h : s.SameBuildOperands s') (hcov : s.CovOk) : s.buildPayload = s'.buildPayload := by
  rw [buildPayload, h.payload_eq (Nat.le_refl _), h.buildCovered_eq hcov, h.payloadLen_eq]
  rfl

theorem buildSum_eq (h : s.SameBuildOperands s') (hcov : s.CovOk) : s.buildSum = s'.buildSum := by
  rw [buildSum, udpSum, h.buildCovered_eq hcov, h.sip, h.dip, h.sport, h.dport, h.payloadLen_eq]
  rfl

theorem frame_eq (h : s.SameBuildOperands s') (hcov : s.CovOk) : s.frame = s'.frame := by
  simp only [frame, frameBytes, ethHeader, ipChecksum, ipHeader, udpHeader, h.dmac, h.smac, h.sip, h.dip, h.sport,
    h.dport, h.payloadLen_eq, h.buildSum_eq hcov, h.buildPayload_eq hcov]

/-- The result registers are the same after both builds. -/
theorem results_eq (h : s.SameBuildOperands s') (hcov : s.CovOk) :
    s.built.flen = s'.built.flen ∧ s.built.csum = s'.built.csum ∧ s.built.acc = s'.built.acc := by
  have hsum := h.buildSum_eq hcov
  exact ⟨congrArg (fun n => BitVec.ofNat 32 (hdrLen + n)) h.payloadLen_eq, congrArg finish hsum,
    congrArg (fun a => (fold a).setWidth 32) hsum⟩

end State.SameBuildOperands

/-- Settles O33: both tests and every operand of `BUILD` are the same in the two states, so its frame and its results
are. -/
theorem buildDependsOnItsOperandsOnly : Obligations.BuildDependsOnItsOperandsOnly := by
  unfold Obligations.BuildDependsOnItsOperandsOnly
  intro s s' t t' hcfg hfresh hdmac hsmac hsip hdip hsport hdport hplen hclen hpayload h h' hok
  obtain ⟨hlen, hcov, rfl⟩ := eq_built_of_exec h hok
  have hcoverage : s.buildCov = s'.buildCov := by rw [buildCov_eq, buildCov_eq, hclen, hplen]
  have same : s.SameBuildOperands s' :=
    ⟨hdmac, hsmac, hsip, hdip, hsport, hdport, hplen, hcoverage, hfresh, hpayload⟩
  have hcov' : s'.CovOk := by rwa [State.CovOk, ← hclen, ← same.payloadLen_eq]
  have hlen' : s'.LenOkBuild := by rwa [State.LenOkBuild, State.LenOk, ← hcfg, ← same.payloadLen_eq]
  obtain rfl : s'.built = t' := Host.Outcome.next.inj ((exec_build_of_ok hlen' hcov').symm.trans h')
  obtain ⟨hflen, hcsum, hacc⟩ := same.results_eq hcov
  refine ⟨rfl, hflen, hcsum, hacc, fun a ha => ?_⟩
  rw [built_get?_frame ha, same.frame_eq hcov, built_get?_frame (same.payloadLen_eq ▸ ha)]

/-! ### Zero coverage (R142, R149) -/

/-- The state with `CLEN` holding `c`. -/
def State.withClen (s : State) (c : Word) : State := s.setParams { s.params with clen := c }

theorem withClen_zero_buildCov (s : State) : (s.withClen 0#32).buildCov = s.payloadLen := rfl

theorem withClen_plen_buildCov (s : State) : (s.withClen s.params.plen).buildCov = s.payloadLen := ite_self _

/-- `CLEN = 0` and `CLEN = PLEN` ask for the same coverage, and no other operand differs (R142). -/
theorem withClen_sameBuildOperands (s : State) :
    (s.withClen 0#32).SameBuildOperands (s.withClen s.params.plen) :=
  ⟨rfl, rfl, rfl, rfl, rfl, rfl, rfl, (withClen_zero_buildCov s).trans (withClen_plen_buildCov s).symm, rfl,
    fun _ _ => rfl⟩

/-- Settles O35: both values of `CLEN` pass the coverage test and make the whole payload the coverage. -/
theorem zeroCoverageMeansFullCoverage : Obligations.ZeroCoverageMeansFullCoverage := by
  unfold Obligations.ZeroCoverageMeansFullCoverage
  intro s hmax hpbuf hfbuf
  have hlen (c : Word) : (s.withClen c).LenOkBuild := ⟨⟨hmax, hpbuf⟩, hfbuf⟩
  have hzero : (s.withClen 0#32).CovOk := Nat.zero_le s.payloadLen
  have hfull : (s.withClen s.params.plen).CovOk := Nat.le_refl s.payloadLen
  have same := withClen_sameBuildOperands s
  have hfbufs : (s.withClen 0#32).built.fbuf = (s.withClen s.params.plen).built.fbuf :=
    congrArg (s.fbuf.write 0) (same.frame_eq hzero)
  exact ⟨_, _, exec_build_of_ok (hlen _) hzero, exec_build_of_ok (hlen _) hfull, rfl, rfl, hfbufs,
    same.results_eq hzero⟩

end Sys2Proof.Machine
end

section
/-! Proofs of the family of spec/43_system.md: the decoder as a map of numbers (R162), a step and the event it performs
(R161, R166, R167, R200), and completion (R161, R163). -/

namespace Sys2Proof.Machine

variable {s t : State} {w : Word} {i : Instr} {e : Event} {l : List Event}

/-! ### The decoder (R162) -/

/-- A word is accepted for a command exactly when it is the command's word. -/
theorem decode_eq_ok_iff : decode w = .ok i ↔ w = encode i :=
  ⟨eq_encode_of_decode, fun h => h ▸ decode_encode i⟩

theorem decode_eq_ok_iff_toNat {n : Nat} (hn : (encode i).toNat = n) : decode w = .ok i ↔ w.toNat = n := by
  rw [decode_eq_ok_iff, ← hn, BitVec.toNat_inj]

theorem encode_aadd_toNat (imm16 : Half) : (encode (.aadd imm16)).toNat = imm16.toNat * 256 + 0x02 := by
  rw [encode_aadd_eq_ofNat, BitVec.toNat_ofNat]
  have := imm16.isLt
  omega

/-- Settles O3: each command has one word, whose number is the listed one. -/
theorem decodeIsTheOpcodeMap : Obligations.DecodeIsTheOpcodeMap := by
  unfold Obligations.DecodeIsTheOpcodeMap
  intro w i
  cases i with
  | aadd imm16 => exact decode_eq_ok_iff_toNat (encode_aadd_toNat imm16)
  | asum sel | cksum sel => cases sel <;> exact decode_eq_ok_iff_toNat rfl
  | nop | aclr | afin | udpcs | build => exact decode_eq_ok_iff_toNat rfl

/-! ### A step by the event it performs (R161, R166, R200) -/

theorem step_of_nil (h : s.schedule = []) : step s = engineTurn s := by
  simp [step, h]

theorem step_of_host {tx : Tx} (h : s.schedule = .host tx :: l) :
    step s = .next (hostTransact tx (s.setSchedule l)) := by
  simp [step, h]

theorem step_of_reset (h : s.schedule = .reset :: l) : step s = .next (resetBlock (s.setSchedule l)) := by
  simp [step, h]

theorem engineTurn_of_idle (hidle : s.status.busy = false) : engineTurn s = .next s := by
  simp [engineTurn, hidle]

theorem engineTurn_of_busy (hbusy : s.status.busy = true) : engineTurn s = complete s := by
  simp [engineTurn, hbusy]

theorem complete_of_illegal {bad : Illegal} (hdec : decode s.cmdlatch = .error bad) :
    complete s = .next (s.setStatus (s.status.failed .illCmd)) := by
  simp [complete, hdec, raise_eq]

/-- While busy the engine ends an illegal word with `E_ILLCMD` (R183). -/
theorem engineTurn_of_illegal {bad : Illegal} (hbusy : s.status.busy = true)
    (hdec : decode s.cmdlatch = .error bad) :
    engineTurn s = .next (s.setStatus (s.status.failed .illCmd)) :=
  (engineTurn_of_busy hbusy).trans (complete_of_illegal hdec)

/-- Settles O5: the schedule says whose turn it is, and a busy engine runs what the latched word decodes to. -/
theorem stepRunsTheScheduledEvent : Obligations.StepRunsTheScheduledEvent := by
  unfold Obligations.StepRunsTheScheduledEvent
  refine fun s l => ⟨fun i hbusy hdec => ⟨fun h => ?legalNil, fun h => ?legalEngine⟩,
    fun bad hbusy hdec => ⟨fun h => ?illegalNil, fun h => ?illegalEngine⟩, fun tx => step_of_host, step_of_reset⟩
  case legalNil => exact (step_of_nil h).trans (engineTurn_of_decode hbusy hdec)
  case legalEngine => exact (step_of_engine h).trans (engineTurn_of_decode hbusy hdec)
  case illegalNil => exact (step_of_nil h).trans (engineTurn_of_illegal hbusy hdec)
  case illegalEngine => exact (step_of_engine h).trans (engineTurn_of_illegal hbusy hdec)

/-- Settles O13: an idle block's engine has nothing to do at its turn. -/
theorem idleStaysIdle : Obligations.IdleStaysIdle := by
  unfold Obligations.IdleStaysIdle
  exact fun s l hidle => ⟨fun h => (step_of_nil h).trans (engineTurn_of_idle hidle),
    fun h => (step_of_engine h).trans (engineTurn_of_idle hidle)⟩

/-! ### Completion (R161, R163, R182, R183) -/

/-- Everything a completion can do: report an error and nothing else, an illegal word's included; leave `ACC` and
`CSUM`; or leave a frame. -/
theorem complete_cases (h : complete s = .next t) :
    (∃ code, code ≠ .none ∧ t = s.setStatus (s.status.failed code)) ∨
    (∃ a c n, t = (((s.setAcc a).setCsum c).setFresh n).setStatus s.status.completed) ∨ t = s.built := by
  cases hdec : decode s.cmdlatch with
  | ok i =>
    have hexec : exec i s = .next t := by rwa [complete, hdec] at h
    exact (exec_cases hexec).imp id (Or.imp id fun ⟨_, _, _, hbuilt⟩ => hbuilt)
  | error bad =>
    cases (complete_of_illegal hdec).symm.trans h
    exact .inl ⟨.illCmd, by decide, rfl⟩

/-- A completion writes `STATUS` as one without error does, or as one with an error does. -/
theorem complete_status (h : complete s = .next t) :
    t.status = s.doneStatus ∨ ∃ code, code ≠ .none ∧ t.status = s.errStatus code := by
  obtain ⟨code, hcode, rfl⟩ | ⟨a, c, n, rfl⟩ | rfl := complete_cases h
  · exact .inr ⟨code, hcode, rfl⟩
  · exact .inl rfl
  · exact .inl rfl

/-- What no completion writes (R61). -/
theorem complete_frame (h : complete s = .next t) :
    t.cfg = s.cfg ∧ t.cmdlatch = s.cmdlatch ∧ t.params = s.params ∧ t.pbuf = s.pbuf ∧
    t.schedule = s.schedule ∧ t.replies = s.replies := by
  obtain ⟨code, -, rfl⟩ | ⟨a, c, n, rfl⟩ | rfl := complete_cases h
  all_goals exact ⟨rfl, rfl, rfl, rfl, rfl, rfl⟩

/-- Settles O9: a completion reports an error, leaves a sum or leaves a frame, and in each case writes nothing else. -/
theorem completionStatus : Obligations.CompletionStatus := by
  unfold Obligations.CompletionStatus
  exact fun s t h => ⟨complete_status h, complete_frame h⟩

/-- Settles O19: `NOP` is a completion alone, its word is its encoding, and reset leaves that word in the latch. -/
theorem nopCompletes : Obligations.NopCompletes := by
  unfold Obligations.NopCompletes
  exact ⟨fun _ => rfl, decode_encode .nop, fun _ => ⟨rfl, rfl⟩⟩

/-! ### Every accepted command completes (R166, R200) -/

/-- A command has been accepted since reset (R33): it is in flight, or the last one has ended. -/
def Status.Started (x : Status) : Prop := x.busy = true ∨ x.done = true ∨ x.err = true

theorem Status.Started.ended {x : Status} (h : x.Started) (hidle : x.busy = false) : x.done = true ∨ x.err = true :=
  h.resolve_left (by simp [hidle])

/-- A completion leaves the block idle with a command ended. -/
theorem complete_ends (h : complete s = .next t) : t.status.busy = false ∧ t.status.Started := by
  obtain hst | ⟨code, -, hst⟩ := complete_status h <;> rw [hst]
  · exact ⟨rfl, .inr (.inl rfl)⟩
  · exact ⟨rfl, .inr (.inr rfl)⟩

/-- The engine's turn leaves the block idle. -/
theorem engineTurn_ends (h : engineTurn s = .next t) :
    t.status.busy = false ∧ t.schedule = s.schedule ∧ (s.status.Started → t.status.Started) := by
  cases hbusy : s.status.busy with
  | true =>
    have hcomplete : complete s = .next t := (engineTurn_of_busy hbusy).symm.trans h
    obtain ⟨hidle, hstarted⟩ := complete_ends hcomplete
    obtain ⟨-, -, -, -, hschedule, -⟩ := complete_frame hcomplete
    exact ⟨hidle, hschedule, fun _ => hstarted⟩
  | false =>
    cases (engineTurn_of_idle hbusy).symm.trans h
    exact ⟨hbusy, rfl, id⟩

/-- No transaction forgets that a command has been accepted, and none decides what comes next. -/
theorem hostTransact_keeps_started (tx : Tx) (s : State) :
    (hostTransact tx s).schedule = s.schedule ∧ (s.status.Started → (hostTransact tx s).status.Started) := by
  obtain h | ⟨r, n, -, h | h⟩ | ⟨-, ⟨w, h⟩ | ⟨p, h⟩ | ⟨i, b, -, h⟩ | ⟨i, b, -, h⟩⟩ := hostTransact_cases tx s <;>
    rw [h]
  case inr.inr.inl => exact ⟨rfl, fun _ => .inl rfl⟩
  all_goals exact ⟨rfl, id⟩

/-- A step performs the oldest event, and no event but reset forgets that a command has been accepted. -/
theorem exists_step_of_cons (h : s.schedule = e :: l) :
    ∃ u, step s = .next u ∧ u.schedule = l ∧ (e ≠ .reset → s.status.Started → u.status.Started) := by
  cases e with
  | host tx =>
    obtain ⟨hschedule, hstarted⟩ := hostTransact_keeps_started tx (s.setSchedule l)
    exact ⟨_, step_of_host h, hschedule, fun _ => hstarted⟩
  | engine =>
    obtain ⟨u, hu⟩ := engineTurn_total (s.setSchedule l)
    obtain ⟨-, hschedule, hstarted⟩ := engineTurn_ends hu
    exact ⟨u, (step_of_engine h).trans hu, hschedule, fun _ => hstarted⟩
  | reset => exact ⟨_, step_of_reset h, rfl, fun hne => absurd rfl hne⟩

/-- When the schedule has run out and the engine has had one more turn, the block is idle; without a reset it has not
forgotten that a command has been accepted. -/
theorem run_schedule_ends (s : State) :
    ∃ t : State, Host.Core.run Sys2Proof.core (s.schedule.length + 1) s = .next t ∧
      t.status.busy = false ∧ t.schedule = [] ∧
      (s.status.Started → (∀ e ∈ s.schedule, e ≠ .reset) → t.status.Started) := by
  induction h : s.schedule generalizing s with
  | nil =>
    obtain ⟨t, ht⟩ := engineTurn_total s
    obtain ⟨hidle, hschedule, hstarted⟩ := engineTurn_ends ht
    exact ⟨t, run_succ_of_step 0 ((step_of_nil h).trans ht), hidle, hschedule.trans h, fun hs _ => hstarted hs⟩
  | cons e l ih =>
    obtain ⟨u, hu, hl, hstarted⟩ := exists_step_of_cons h
    obtain ⟨t, ht, hidle, hschedule, hkeep⟩ := ih u hl
    refine ⟨t, (run_succ_of_step _ hu).trans ht, hidle, hschedule, fun hs hnoreset => ?_⟩
    obtain ⟨he, htail⟩ := List.forall_mem_cons.1 hnoreset
    exact hkeep (hstarted he hs) htail

/-- The engine's turn of a busy block ends its command. -/
theorem exists_engineTurn_of_busy (hbusy : s.status.busy = true) :
    ∃ v, engineTurn s = .next v ∧ v.status.busy = false ∧ (v.status.done = true ∨ v.status.err = true) := by
  obtain ⟨v, hv⟩ := engineTurn_total s
  obtain ⟨hidle, -, hstarted⟩ := engineTurn_ends hv
  exact ⟨v, hv, hidle, (hstarted (.inl hbusy)).ended hidle⟩

/-- While busy no transaction takes the command in flight from the engine (R62). -/
theorem hostTransact_keeps_in_flight (tx : Tx) (hbusy : s.status.busy = true) :
    (hostTransact tx s).status.busy = true ∧ (hostTransact tx s).cmdlatch = s.cmdlatch ∧
    (hostTransact tx s).schedule = s.schedule := by
  have hview := hostTransact_engineView tx hbusy
  exact ⟨(congrArg (·.status.busy) hview).trans hbusy, congrArg (·.cmdlatch) hview, congrArg (·.schedule) hview⟩

/-- Without a reset the command in flight is never abandoned: up to the engine's first turn the block stays busy with
the same word latched, and that turn ends the command. -/
theorem exists_run_to_completion (hbusy : s.status.busy = true) (hnoreset : ∀ e ∈ s.schedule, e ≠ .reset) :
    ∃ (k : Nat) (u v : State), k ≤ s.schedule.length ∧
      Host.Core.run Sys2Proof.core k s = .next u ∧
      u.status.busy = true ∧ u.cmdlatch = s.cmdlatch ∧
      step u = .next v ∧ v.status.busy = false ∧ (v.status.done = true ∨ v.status.err = true) := by
  induction h : s.schedule generalizing s with
  | nil =>
    obtain ⟨v, hv, hended⟩ := exists_engineTurn_of_busy hbusy
    exact ⟨0, s, v, Nat.zero_le _, rfl, hbusy, rfl, (step_of_nil h).trans hv, hended⟩
  | cons e l ih =>
    rw [h] at hnoreset
    obtain ⟨he, htail⟩ := List.forall_mem_cons.1 hnoreset
    cases e with
    | reset => exact absurd rfl he
    | engine =>
      obtain ⟨v, hv, hended⟩ := exists_engineTurn_of_busy (s := s.setSchedule l) hbusy
      exact ⟨0, s, v, Nat.zero_le _, rfl, hbusy, rfl, (step_of_engine h).trans hv, hended⟩
    | host tx =>
      obtain ⟨hstill, hlatch, hschedule⟩ := hostTransact_keeps_in_flight (s := s.setSchedule l) tx hbusy
      obtain ⟨k, u, v, hk, hrun, hubusy, hulatch, hlast⟩ := ih hstill (by rwa [hschedule]) hschedule
      exact ⟨k + 1, u, v, Nat.succ_le_succ hk, (run_succ_of_step k (step_of_host h)).trans hrun, hubusy,
        hulatch.trans hlatch, hlast⟩

/-- Settles O12, by induction on the schedule: the engine's last turn leaves the block idle, and without a reset its
first turn ends the command in flight. -/
theorem acceptedCommandsComplete : Obligations.AcceptedCommandsComplete := by
  unfold Obligations.AcceptedCommandsComplete
  refine fun s => ⟨?idle, exists_run_to_completion⟩
  obtain ⟨t, hrun, hidle, hschedule, hstarted⟩ := run_schedule_ends s
  exact ⟨t, hrun, hidle, hschedule, fun hbusy hnoreset => (hstarted (.inl hbusy) hnoreset).ended hidle⟩

end Sys2Proof.Machine
end

section
/-! Proofs of the family of spec/60_exceptions.md: which code a command error reports (R181, R188), that it changes
`STATUS` alone (R182), and the illegal word (R183). -/

namespace Sys2Proof.Machine

variable {s t : State} {w : Word} {i : Instr} {code : ECode}

/-! ### What a command error leaves (R182) -/

/-- Settles O10: of what a completion can do, only the report of an error sets `ERR`. -/
theorem commandErrorIsPrecise : Obligations.CommandErrorIsPrecise := by
  unfold Obligations.CommandErrorIsPrecise
  intro s t h herr
  obtain ⟨code, hcode, rfl⟩ | ⟨a, c, n, rfl⟩ | rfl := complete_cases h
  case inl => exact ⟨hcode, rfl⟩
  case inr.inl => cases herr
  case inr.inr => cases herr

/-! ### The code a command reports (R181, R188) -/

/-- Where the outcome is a next state, its `ECODE` is `code`. -/
def Reports (o : Host.Outcome State Fault Refusal) (code : ECode) : Prop :=
  ∀ t, o = .next t → t.status.ecode = code

theorem reports_completeOk (u : State) : Reports (completeOk u) .none := by
  rintro t ⟨⟩
  rfl

theorem reports_raise (code : ECode) (s : State) : Reports (raise code s) code := by
  rintro t ⟨⟩
  rfl

/-- A test of R188: where it fails (`bad`) its code is reported, and where it passes the command goes on. -/
theorem reports_test {ok bad : Prop} [Decidable ok] [Decidable bad] {o : Host.Outcome State Fault Refusal}
    {rest : ECode} (hbad : bad ↔ ¬ ok) (hrest : Reports o rest) :
    Reports (if ok then o else raise code s) (if bad then code else rest) := by
  by_cases hok : ok
  · rwa [if_pos hok, if_neg (mt hbad.1 (not_not_intro hok))]
  · rw [if_neg hok, if_pos (hbad.2 hok)]
    exact reports_raise code s

/-- The one test of `ASUM` and `CKSUM` (R106). -/
theorem reports_region (sel : BufSel) (s u : State) :
    Reports (if s.RegionValid sel then completeOk u else raise .region s)
      (if s.params.rbase.toNat + s.params.rlen.toNat > s.bufSize sel then .region else .none) :=
  reports_test Nat.not_le.symm (reports_completeOk u)

theorem not_lenOk_iff (s : State) :
    s.params.plen.toNat > 65507 ∨ s.params.plen.toNat > s.cfg.pbufSize ↔ ¬ s.LenOk := by
  rw [not_and_or, Nat.not_le, Nat.not_le]
  rfl

theorem not_lenOkBuild_iff (s : State) :
    s.params.plen.toNat > 65507 ∨ s.params.plen.toNat > s.cfg.pbufSize ∨
      42 + s.params.plen.toNat > s.cfg.fbufSize ↔ ¬ s.LenOkBuild := by
  rw [not_and_or, ← not_lenOk_iff, Nat.not_le, or_assoc]
  rfl

theorem reports_udpcs (s : State) :
    Reports (exec .udpcs s)
      (if s.params.plen.toNat > 65507 ∨ s.params.plen.toNat > s.cfg.pbufSize then .len
       else if s.params.clen.toNat > s.params.plen.toNat then .cov
       else .none) :=
  reports_test (not_lenOk_iff s) (reports_test Nat.not_le.symm (reports_completeOk _))

theorem reports_build (s : State) :
    Reports (exec .build s)
      (if s.params.plen.toNat > 65507 ∨ s.params.plen.toNat > s.cfg.pbufSize ∨
          42 + s.params.plen.toNat > s.cfg.fbufSize then .len
       else if s.params.clen.toNat > s.params.plen.toNat then .cov
       else .none) :=
  reports_test (not_lenOkBuild_iff s) (reports_test Nat.not_le.symm (reports_completeOk _))

/-- No command writes the parameter registers or the latch (R61). -/
theorem exec_keeps_params_cmdlatch (h : exec i s = .next t) : t.params = s.params ∧ t.cmdlatch = s.cmdlatch := by
  obtain ⟨code, -, rfl⟩ | ⟨a, c, n, rfl⟩ | ⟨-, -, -, rfl⟩ := exec_cases h
  all_goals exact ⟨rfl, rfl⟩

/-- The decoder refuses a word exactly when it names the reason (R87). -/
theorem decode_ne_ok_iff : (∀ i, decode w ≠ .ok i) ↔ ∃ bad, decode w = .error bad := by
  cases decode w <;> simp

/-- Settles O11: each command reports the first of its tests that fails, and an illegal word is one before any other
test. -/
theorem commandErrorCodes : Obligations.CommandErrorCodes := by
  unfold Obligations.CommandErrorCodes
  refine ⟨fun i s t h => ?command, fun s t hillegal h => ?illegal, rfl, rfl, rfl, rfl, rfl⟩
  case command =>
    obtain ⟨hparams, hlatch⟩ := exec_keeps_params_cmdlatch h
    refine ⟨hparams, hlatch, ?_⟩
    cases i with
    | nop | aclr | aadd imm16 | afin => exact reports_completeOk _ t h
    | asum sel | cksum sel => cases sel <;> exact reports_region _ s _ t h
    | udpcs => exact reports_udpcs s t h
    | build => exact reports_build s t h
  case illegal =>
    obtain ⟨bad, hdec⟩ := decode_ne_ok_iff.1 hillegal
    cases (complete_of_illegal hdec).symm.trans h
    exact ⟨rfl, rfl⟩

/-! ### An illegal word (R183) -/

/-- What a host reads after an illegal word while `PERR` is 0: `ERR` and code 1. -/
theorem failed_illCmd_word {x : Status} (hperr : x.perr = false) : (x.failed .illCmd).word = 0x14#32 := by
  have hfields : x.failed .illCmd = ⟨false, false, true, false, .illCmd⟩ := by rw [Status.failed, hperr]
  rw [hfields]
  decide

/-- Settles O8: the idle block accepts the word as it accepts any, and the engine's turn finds no command in it. -/
theorem illegalWordEndsWithCodeOne : Obligations.IllegalWordEndsWithCodeOne := by
  unfold Obligations.IllegalWordEndsWithCodeOne
  refine ⟨fun s w hidle hillegal => ⟨?accepted, ?completed⟩, fun s => failed_illCmd_word,
    decode_ne_ok_iff.2 ⟨.reservedOpcode 0x08#8, by decide⟩, decode_ne_ok_iff.2 ⟨.operandBits 0x07#8, by decide⟩⟩
  case accepted => exact hostTransact_write32_of_idle (r := .cmd) hidle
  case completed =>
    obtain ⟨bad, hdec⟩ := decode_ne_ok_iff.1 hillegal
    exact engineTurn_of_illegal (s := accept w s) rfl hdec

end Sys2Proof.Machine
end

section
/-! Proofs of the family of spec/70_reset_and_hazards.md: the values after reset (R39, R200, R201). -/

namespace Sys2Proof.Machine

/-! ### What reset leaves (R39, R201) -/

/-- A host reads `STATUS` as 0 after reset (R33, R201). -/
theorem Status.reset_word : Status.reset.word = 0#32 := by decide

/-- No buffer byte has a value after reset (R39, U1). -/
theorem State.resetWith_get? (c : Config) (k : Nat) :
    (State.resetWith c).pbuf.get? k = none ∧ (State.resetWith c).fbuf.get? k = none := ⟨rfl, rfl⟩

/-- A reset of a block in any state leaves its buffers as those of the block the machine starts from. -/
theorem resetBlock_get? (s : State) (k : Nat) :
    (resetBlock s).pbuf.get? k = none ∧ (resetBlock s).fbuf.get? k = none := State.resetWith_get? s.cfg k

/-- Settles O18: the reset event and the state the machine starts from write the same value to each register and
empty both buffers; the event takes its parameters from the state it resets. -/
theorem resetValues : Obligations.ResetValues := by
  unfold Obligations.ResetValues
  refine ⟨fun s t ht => ?resetEvent, fun c t ht => ?start⟩
  case resetEvent =>
    subst ht
    exact ⟨rfl, rfl, rfl, rfl, rfl, rfl, resetBlock_get? s, rfl⟩
  case start =>
    subst ht
    exact ⟨rfl, Status.reset_word, rfl, rfl, rfl, rfl, State.resetWith_get? c⟩

end Sys2Proof.Machine
end
